-- ==== Sys2Proof/Word.lean ====
section
/-! DEFINITION. The word and byte types of the unit (spec/00_scope.md R6, R8). -/

namespace Sys2Proof

/-- `W`, the width of `ARG0`, `RES` and the parameter registers (R6: 64, decision D2). [log 14] -/
abbrev wordBits : Nat := 64

/-- A `W`-bit register value (R6). -/
abbrev Word := BitVec wordBits

/-- A byte of `BUF`, `HBUF` or `LOW` (20_memory.md R40). -/
abbrev Byte := BitVec 8

end Sys2Proof
end

