-- ==== Sys2Proof/Syntax.lean ====
section
/-! DEFINITION. The ten commands of the unit (spec/30_encoding.md R61). -/

namespace Sys2Proof

/-- The commands of R61, one constructor per row of spec/opcode_table.json. A command word has no operand field
(R60): the one operand is the register `ARG0` (R62). -/
inductive Instr where
  /-- `POPCNT8`, 40_bit_primitives.md R81. -/
  | popcnt8
  /-- `LOG2FLOOR`, 40_bit_primitives.md R84. -/
  | log2floor
  /-- `LOG2CEIL`, 40_bit_primitives.md R85. -/
  | log2ceil
  /-- `DBUILD`, 41_dense_index.md R95. -/
  | dbuild
  /-- `DRANK1`, 41_dense_index.md R96. -/
  | drank1
  /-- `DSELECT1`, 42_dense_select.md R110. -/
  | dselect1
  /-- `DSELECT0`, 42_dense_select.md R118. -/
  | dselect0
  /-- `SBUILD`, 44_sparse.md R140. -/
  | sbuild
  /-- `SRANK1`, 44_sparse.md R150. -/
  | srank1
  /-- `SSELECT1`, 44_sparse.md R158. -/
  | sselect1
  deriving DecidableEq, Repr

end Sys2Proof
end

