-- ==== Sys2Proof/Machine/HostPort.lean ====
section
/-! DEFINITION. The host side of the unit: register numbers and widths, transactions, and the host notation of
spec/30_encoding.md R66 and R67 (10_state.md R10, R11). -/

namespace Sys2Proof

/-- The register numbers of the host register file (10_state.md R11). -/
inductive HostReg where
  | cmd | arg0 | res | status | bufptr | bufdata | flags | dlen | dr1max
  | slen | sweight | slowlen | shighlen | slowmask | reserved14 | reserved15
  deriving DecidableEq, Repr

/-- Column "n" of R11's table; where a register stands in a host's address space is read by no rule (20_memory.md R49).
[log 17] -/
def HostReg.number : HostReg → Nat
  | .cmd => 0
  | .arg0 => 1
  | .res => 2
  | .status => 3
  | .bufptr => 4
  | .bufdata => 5
  | .flags => 6
  | .dlen => 7
  | .dr1max => 8
  | .slen => 9
  | .sweight => 10
  | .slowlen => 11
  | .shighlen => 12
  | .slowmask => 13
  | .reserved14 => 14
  | .reserved15 => 15

/-- The register of a number; a number above 15 names no register (R21). -/
def HostReg.ofNumber : Nat → Option HostReg
  | 0 => some .cmd
  | 1 => some .arg0
  | 2 => some .res
  | 3 => some .status
  | 4 => some .bufptr
  | 5 => some .bufdata
  | 6 => some .flags
  | 7 => some .dlen
  | 8 => some .dr1max
  | 9 => some .slen
  | 10 => some .sweight
  | 11 => some .slowlen
  | 12 => some .shighlen
  | 13 => some .slowmask
  | 14 => some .reserved14
  | 15 => some .reserved15
  | _ => none

/-- Column "width" of R11's table. The table gives the reserved registers no width; here a write presents a `W`-bit
value to them. DESIGN CHOICE [log 10] -/
def HostReg.width : HostReg → Nat
  | .cmd => 32
  | .arg0 => wordBits
  | .res => wordBits
  | .status => 4
  | .bufptr => wordBits
  | .bufdata => 8
  | .flags => 3
  | .dlen => wordBits
  | .dr1max => wordBits
  | .slen => wordBits
  | .sweight => wordBits
  | .slowlen => wordBits
  | .shighlen => wordBits
  | .slowmask => wordBits
  | .reserved14 => wordBits
  | .reserved15 => wordBits

/-- What the outside can do to the unit, as R66 writes a program down: `(W, n, v)` is `HostWrite(n, v)`, `(R, n)` is
`HostRead(n)` (10_state.md R10); and the reset event (70_reset_and_hazards.md R190). -/
inductive HostInput where
  | write (n v : Nat)
  | read (n : Nat)
  | reset
  deriving DecidableEq, Repr

/-- The pseudo-instruction `load@ a: b0, ..., bm` of R67. -/
def pseudoLoadAt (a : Nat) (bytes : List Nat) : List HostInput :=
  .write HostReg.bufptr.number a :: bytes.map (.write HostReg.bufdata.number)

/-- The pseudo-instruction `load b0, ..., bm` of R67. -/
def pseudoLoad (bytes : List Nat) : List HostInput :=
  pseudoLoadAt 0 bytes

/-- The pseudo-instruction `OP v` of R67, for the command word of the mnemonic `OP`. -/
def pseudoCommand (word v : Nat) : List HostInput :=
  [.write HostReg.arg0.number v, .write HostReg.cmd.number word, .read HostReg.status.number,
    .read HostReg.res.number]

end Sys2Proof
end

