-- ==== Sys2Proof/WellFormed.lean ====
section
/-! DEFINITION. The well-formedness checks: of a command word's format (spec/30_encoding.md R60), of an instruction, and of
a host transaction (10_state.md R10, R11, R21). -/

namespace Sys2Proof

/-- Format `C` (R60): bits 31:8 "must be 0". -/
def formatC (w : BitVec 32) : Bool :=
  w.extractLsb' 8 24 == 0#24

/-- A command has no operand field (R60), so every instruction is well-formed. -/
def Instr.wellFormed : Instr → Bool
  | .popcnt8 => true
  | .log2floor => true
  | .log2ceil => true
  | .dbuild => true
  | .drank1 => true
  | .dselect1 => true
  | .dselect0 => true
  | .sbuild => true
  | .srank1 => true
  | .sselect1 => true

/-- A transaction names one of the sixteen registers (R21) and a write presents a value of that register's width (R10).
Reset is always an input. -/
def HostInput.wellFormed : HostInput → Bool
  | .write n v =>
    match HostReg.ofNumber n with
    | some r => decide (v < 2 ^ r.width)
    | none => false
  | .read n => (HostReg.ofNumber n).isSome
  | .reset => true

end Sys2Proof
end

