-- ==== Sys2Proof/Decode.lean ====
section
/-! DEFINITION. Decoding and encoding of command words (spec/30_encoding.md R60, R61, R64, R65). -/

namespace Sys2Proof

/-- Why a word is illegal (R64). -/
inductive DecodeRejection where
  /-- `word[31:8] != 0`. -/
  | upperBitsNotZero
  /-- The opcode is in no row of R61. -/
  | unassignedOpcode
  deriving DecidableEq, Repr

/-- The columns "opcode" and "mnemonic" of R61's table. -/
def opcodeTable : List (BitVec 8 × Instr) :=
  [(0x01, .popcnt8), (0x02, .log2floor), (0x03, .log2ceil), (0x10, .dbuild), (0x11, .drank1),
    (0x12, .dselect1), (0x13, .dselect0), (0x20, .sbuild), (0x21, .srank1), (0x22, .sselect1)]

/-- The decoder of R61: "if `word[31:8] != 0` the command is illegal; otherwise look `word[7:0]` up in this table; an
opcode not in the table is illegal". A pure function of the word (R65). -/
def decode (w : BitVec 32) : Except DecodeRejection Instr :=
  if formatC w then
    match opcodeTable.lookup (w.extractLsb' 0 8) with
    | some i => .ok i
    | none => .error .unassignedOpcode
  else .error .upperBitsNotZero

/-- Column "opcode" of R61's table, by mnemonic. -/
def opcode : Instr → BitVec 8
  | .popcnt8 => 0x01
  | .log2floor => 0x02
  | .log2ceil => 0x03
  | .dbuild => 0x10
  | .drank1 => 0x11
  | .dselect1 => 0x12
  | .dselect0 => 0x13
  | .sbuild => 0x20
  | .srank1 => 0x21
  | .sselect1 => 0x22

/-- The command word: opcode in bits 7:0, zero in bits 31:8 (R60). -/
def encode (i : Instr) : BitVec 32 :=
  0#24 ++ opcode i

/-- The instruction the decoder reads from the table's numbering of a word's bits: bit 0 is bit 0 of the one 32-bit command
word (R60); bits at and above `nbits` are 0. [log 16] -/
def decodeTableWord (nbits w : Nat) : Option Instr :=
  (decode (BitVec.ofNat 32 (w % 2 ^ nbits))).toOption

end Sys2Proof
end

