-- ==== Sys2Proof/Config.lean ====
section
/-! DEFINITION. What an implementation fixes, and the values the spec leaves open: the constants of
spec/00_scope.md R5, the open capacity of R6, and the two free values (10_state.md R14, R38). -/

namespace Sys2Proof

/-- The three byte memories of the unit (20_memory.md R40). -/
inductive ByteMemory where
  | buf
  | hbuf
  | low
  deriving DecidableEq, Repr

namespace Config

/-- `LARGE_BITS`, bits per large block (R5). -/
abbrev largeBits : Nat := 65536

/-- `SMALL_BITS`, bits per small block (R5). -/
abbrev smallBits : Nat := 128

/-- `LARGE_BLOCK_BYTES` (R5). -/
abbrev largeBlockBytes : Nat := 8192

/-- `SMALL_BLOCK_BYTES` (R5, 90_conflicts.md C6). -/
abbrev smallBlockBytes : Nat := 16

/-- `LARGE_TO_SMALL`, small blocks per large block (R5). -/
abbrev largeToSmall : Nat := 512

/-- `BUF_BYTES` of the machine after power-up, with `MAX_LEN = 8 * BUF_BYTES` (R6, decision D3: OPEN).
The type carries R6's constraint `MAX_LEN <= 2^(W-1)`; no other fact about it can be proved. [log 3] -/
opaque bufBytes : Fin (2 ^ 60 + 1)

/-- The unspecified value in `RES` after the `n`-th failure (R14, 93_implementation_defined.md U1).
A free value. [log 4] -/
opaque freeResult : Nat → Word

/-- The unspecified byte that address `a` of a byte memory holds after the `n`-th reset until it is written
(R38, 93_implementation_defined.md U4): arguments the memory, `n`, `a`. A free value. [log 5] -/
opaque unwrittenByte : ByteMemory → Nat → Nat → Byte

end Config

end Sys2Proof
end

