-- ==== Sys2Proof/Machine/State.lean ====
section
/-! DEFINITION. The state of the unit, plain data (spec/10_state.md), its reset value (R38), and the reasons a step can
stop. -/

namespace Sys2Proof.Machine

/-- The failure conditions 1 to 8 (30_encoding.md R63, 60_exceptions.md R170). -/
inductive Failure where
  | outOfRange
  | rankOutOfRange
  | rankExceedsVector
  | zeroWeight
  | notBuilt
  | illegalCommand
  | capacity
  | illegalOperand
  deriving DecidableEq, Repr

/-- What `STATUS` can hold: exactly the nine values 0 to 8 (R63, 93_implementation_defined.md U9). -/
inductive Status where
  | ok
  | failed (e : Failure)
  deriving DecidableEq, Repr

/-- Which byte memory a dense context indexes (10_state.md R23). -/
inductive Source where
  | buf
  | hbuf
  deriving DecidableEq, Repr

/-- A byte memory: the bytes written since reset, by address, addresses strictly rising (`Memory.wf`). An unlisted address
lists no byte at all; what reading it gives is `State.peek`'s free byte (R38, 93_implementation_defined.md U4). [log 5] -/
abbrev Memory := List Host.Cell

/-- A dense context (R23): the record of one dense bit vector. Its entries are naturals. [log 13] -/
structure DenseContext where
  src : Source
  length : Nat
  nbytes : Nat
  nlarge : Nat
  nsmall : Nat
  large : List Nat
  small : List Nat
  rank1Max : Nat
  deriving DecidableEq, Repr

/-- The sparse context `SV` (R29); `LOW[]` and `HBUF[]` are memories of `State`. -/
structure SparseContext where
  length : Nat
  weight : Nat
  lowLength : Nat
  highLength : Nat
  lowMask : Nat
  degenerate : Bool
  lastSetPos : Nat
  inner : DenseContext
  deriving DecidableEq, Repr

/-- Everything the spec gives the unit (R11, R23, R29, R35), then the open parameter `BUF_BYTES` (R6) and the model's own
fields (INVENTORY.md, "State"). -/
structure State where
  /-- `CMD`, R12. -/
  cmd : BitVec 32
  /-- `ARG0`, R13. -/
  arg0 : Word
  /-- `RES`, R14. -/
  res : Word
  /-- `STATUS`, R15. -/
  status : Status
  /-- `BUFPTR`, R16. -/
  bufptr : Word
  /-- `FLAGS`, R18: bit 0 `DVALID`, bit 1 `SVALID`, bit 2 `SDEGEN`. -/
  flags : BitVec 3
  /-- `BUF`, R35. -/
  buf : Memory
  /-- `HBUF`, R35. -/
  hbuf : Memory
  /-- `LOW`, R35. -/
  low : Memory
  /-- `DV`, R28. -/
  dv : DenseContext
  /-- `SV`, R29. -/
  sv : SparseContext
  /-- `BUF_BYTES`, the open parameter of R6; no step changes it. [log 3] -/
  bufBytes : Nat
  /-- The model's own: reset events so far; picks the unknown bytes of unwritten memory. [log 5] -/
  powerUps : Nat
  /-- The model's own: failures so far; picks the unspecified `RES`. [log 4] -/
  draws : Nat
  /-- The model's own: the transactions and reset events still to come, in order (R10). [log 1] -/
  inputs : List HostInput
  /-- The model's own: the values `HostRead` returned, oldest first (R10). [log 2] -/
  outputs : List Word
  deriving DecidableEq, Repr

/-- Why the machine stops: an access to something the spec says does not exist. No command reaches one from a state a run
reaches, where every index is in range (41_dense_index.md R97, 42_dense_select.md R113, R114, 10_state.md R35). [log 8] -/
inductive Fault where
  /-- Byte `a` of memory `m` with `a >= BUF_BYTES` (20_memory.md R40). Raised by the byte accesses of the builds and
  queries. Safe. -/
  | noSuchByte (m : ByteMemory) (a : Nat)
  /-- Entry `k` of a `large[]` or `small[]` shorter than that (10_state.md R23). Raised by the dense queries. Safe. -/
  | noSuchEntry (k : Nat)
  /-- A search for the largest index over a range in which no index qualifies (42_dense_select.md R113, R114: "the set is
  not empty"). Raised by the dense selects. Safe. -/
  | emptySearch
  deriving DecidableEq, Repr

/-- Why an input has no meaning. [log 11] -/
inductive Refusal where
  /-- An instruction whose meaning is still to be written. Raised by exec's arms alone. Safe. -/
  | notModelled (mnemonic : String)
  /-- A transaction whose register number is above 15, "not a transaction of this unit" (10_state.md R21). Raised by
  `perform`. Safe. -/
  | noSuchRegister (n : Nat)
  /-- A write whose value does not have the width of its register (10_state.md R10). Raised by `perform`. Safe. -/
  | valueTooWide (n v : Nat)
  deriving DecidableEq, Repr

/-- Why a rule's pseudocode ends early: it raises a failure (00_scope.md R9), or the machine faults. -/
inductive Stop where
  | raised (e : Failure)
  | machine (f : Fault)
  deriving DecidableEq, Repr

/-- What one step answers. -/
abbrev Result := Host.Outcome State Fault Refusal

/-- A dense context that holds nothing: the content of `DV` and `SV.inner` after reset, which R38 leaves unspecified and
no command observes. DESIGN CHOICE [log 6] -/
def DenseContext.empty : DenseContext :=
  { src := .buf, length := 0, nbytes := 0, nlarge := 0, nsmall := 0, large := [], small := [], rank1Max := 0 }

/-- The content of `SV` after reset, unspecified and unobservable by R38. DESIGN CHOICE [log 6] -/
def SparseContext.empty : SparseContext :=
  { length := 0, weight := 0, lowLength := 0, highLength := 0, lowMask := 0, degenerate := false, lastSetPos := 0,
    inner := .empty }

/-- The machine after reset (R38): the six registers 0, both structures not valid, no byte of any memory known, no input
pending. [log 1] [log 3] [log 5] [log 6] -/
def State.reset : State :=
  { cmd := 0, arg0 := 0, res := 0, status := .ok, bufptr := 0, flags := 0, buf := [], hbuf := [], low := [],
    dv := .empty, sv := .empty, bufBytes := Config.bufBytes.val, powerUps := 0, draws := 0, inputs := [],
    outputs := [] }

end Sys2Proof.Machine
end

