-- ==== Sys2Proof/Machine/Flags.lean ====
section
/-! DEFINITION. The status codes (spec/30_encoding.md R63) and the bits of `FLAGS` (10_state.md R18). -/

namespace Sys2Proof.Machine

/-- Column "code" of R63's table for the failures. -/
def failureCode : Failure → BitVec 4
  | .outOfRange => 1
  | .rankOutOfRange => 2
  | .rankExceedsVector => 3
  | .zeroWeight => 4
  | .notBuilt => 5
  | .illegalCommand => 6
  | .capacity => 7
  | .illegalOperand => 8

/-- The four bits of `STATUS` (R15, R63). -/
def statusCode : Status → BitVec 4
  | .ok => 0
  | .failed e => failureCode e

/-- Sets bit `k` of `FLAGS` to `b` and keeps the others. -/
def setFlag (k : Nat) (b : Bool) (f : BitVec 3) : BitVec 3 :=
  if b then f ||| (1#3 <<< k) else f &&& ~~~(1#3 <<< k)

/-- `FLAGS.DVALID`, bit 0 (R18). -/
def State.dvalid (s : State) : Bool := s.flags.getLsbD 0

/-- `FLAGS.SVALID`, bit 1 (R18). -/
def State.svalid (s : State) : Bool := s.flags.getLsbD 1

/-- `FLAGS.SDEGEN`, bit 2 (R18). -/
def State.sdegen (s : State) : Bool := s.flags.getLsbD 2

/-- `FLAGS.DVALID <- b`. -/
def State.setDvalid (b : Bool) (s : State) : State := { s with flags := setFlag 0 b s.flags }

/-- `FLAGS.SVALID <- b`. -/
def State.setSvalid (b : Bool) (s : State) : State := { s with flags := setFlag 1 b s.flags }

/-- `FLAGS.SDEGEN <- b`. -/
def State.setSdegen (b : Bool) (s : State) : State := { s with flags := setFlag 2 b s.flags }

end Sys2Proof.Machine
end

