-- ==== Sys2Proof/Machine/Ops.lean ====
section
/-! DEFINITION. The operations every command is built from: byte memories (spec/20_memory.md R40 to R42), index entries, the
loops and the `max` of 00_scope.md R9, and the two ways a command ends (R9, 60_exceptions.md R175). -/

namespace Sys2Proof.Machine

/-! ## Byte memories -/

/-- The canonical form of a memory: addresses strictly rising. An unlisted address lists no byte, so no entry can equal what
it lists. -/
def Memory.wf : Memory → Bool
  | [] => true
  | [_] => true
  | (a, _) :: (b, y) :: m => decide (a < b) && Memory.wf ((b, y) :: m)

/-- The byte listed for an address, if one is. -/
def Memory.read? : Memory → Nat → Option Byte
  | [], _ => none
  | (x, y) :: m, a => if x = a then some y else Memory.read? m a

/-- Lists byte `b` for address `a`, keeping the canonical form. -/
def Memory.write : Memory → Nat → Byte → Memory
  | [], a, b => [(a, b)]
  | (x, y) :: m, a, b =>
    if a < x then (a, b) :: (x, y) :: m
    else if a = x then (a, b) :: m
    else (x, y) :: Memory.write m a b

/-- The memory a name of R40's table stands for. -/
def State.memory (s : State) : ByteMemory → Memory
  | .buf => s.buf
  | .hbuf => s.hbuf
  | .low => s.low

/-- Replaces one of the three memories. -/
def State.setMemory (s : State) : ByteMemory → Memory → State
  | .buf, m => { s with buf := m }
  | .hbuf, m => { s with hbuf := m }
  | .low, m => { s with low := m }

/-- The model's read of one byte: the byte written last, or the free byte of an address not written since reset (R38,
93_implementation_defined.md U4). [log 5] -/
def State.peek (s : State) (m : ByteMemory) (a : Nat) : Byte :=
  ((s.memory m).read? a).getD (Config.unwrittenByte m s.powerUps a)

/-- `MAX_LEN`, the largest bit length a build accepts (00_scope.md R6). -/
def State.maxLen (s : State) : Nat := 8 * s.bufBytes

/-- A read of byte `a` of a memory, `0 <= a < BUF_BYTES` (00_scope.md R9 `MemRead`, 20_memory.md R40). [log 8] -/
def readByte (m : ByteMemory) (a : Nat) (s : State) : Except Stop Byte :=
  if a < s.bufBytes then .ok (s.peek m a) else .error (.machine (.noSuchByte m a))

/-- A write of byte `a` of a memory, `0 <= a < BUF_BYTES` (00_scope.md R9, 20_memory.md R40). [log 8] -/
def writeByte (m : ByteMemory) (a : Nat) (b : Byte) (s : State) : Except Stop State :=
  if a < s.bufBytes then .ok (s.setMemory m ((s.memory m).write a b)) else .error (.machine (.noSuchByte m a))

/-- The byte memory of a source (10_state.md R23). -/
def Source.memory : Source → ByteMemory
  | .buf => .buf
  | .hbuf => .hbuf

/-- Bit `o` of a byte memory: bit `o mod 8` of byte `o div 8`, least-significant first (20_memory.md R41, 43_bit_field.md
R130). -/
def readBit (m : ByteMemory) (o : Nat) (s : State) : Except Stop Bool := do
  let b ← readByte m (o / 8) s
  .ok (b.getLsbD (o % 8))

/-- Sets bit `o` of a byte memory to 1 (43_bit_field.md R132, R134: `M[o div 8] <- M[o div 8] OR 2^(o mod 8)`). -/
def setBit (m : ByteMemory) (o : Nat) (s : State) : Except Stop State := do
  let b ← readByte m (o / 8) s
  writeByte m (o / 8) (b ||| BitVec.ofNat 8 (2 ^ (o % 8))) s

/-- The byte with only its `n` low-order bits kept: `b AND (2^n - 1)`. -/
def lowBits (n : Nat) (b : Byte) : Byte := b &&& BitVec.ofNat 8 (2 ^ n - 1)

/-- `VB(c, b)`: byte `b` of the source with its padding bits 0 (20_memory.md R42). -/
def validByte (src : Source) (length b : Nat) (s : State) : Except Stop Byte := do
  let x ← readByte src.memory b s
  .ok (if 8 * b + 8 ≤ length then x else lowBits (length - 8 * b) x)

/-- Entry `k` of an index array (10_state.md R23). [log 8] -/
def entry (xs : List Nat) (k : Nat) : Except Stop Nat :=
  match xs[k]? with
  | some v => .ok v
  | none => .error (.machine (.noSuchEntry k))

/-! ## Loops -/

/-- `for i in a .. a + n - 1`, with the loop's variables as an accumulator (00_scope.md R9). -/
def forUp {σ : Type} (body : Nat → σ → Except Stop σ) : Nat → Nat → σ → Except Stop σ
  | _, 0, acc => .ok acc
  | a, n + 1, acc => do
    let acc' ← body a acc
    forUp body (a + 1) n acc'

/-- `max { k in [a, a + n) : P(k) }` (00_scope.md R9). [log 8] -/
def lastWhere (P : Nat → Except Stop Bool) (a : Nat) : Nat → Except Stop Nat
  | 0 => .error (.machine .emptySearch)
  | n + 1 => do
    if ← P (a + n) then .ok (a + n) else lastWhere P a n

/-! ## How a command ends -/

/-- `return v`: `RES <- v`, `STATUS <- 0` (00_scope.md R9, 30_encoding.md R68). [log 9] -/
def finish (v : Nat) (s : State) : State :=
  { s with res := BitVec.ofNat wordBits v, status := .ok }

/-- `raise E`, the unit's whole exception entry: `STATUS <- code(E)`, `RES` unspecified, nothing else (60_exceptions.md
R175). Nothing is saved, so there is nothing to return from (R177). The unspecified value is a free value, a new one each
time. [log 4] -/
def raise (e : Failure) (s : State) : State :=
  { s with res := Config.freeResult s.draws, draws := s.draws + 1, status := .failed e }

/-- The end of a command that was answered a value or stopped, in state `s` (30_encoding.md R68). -/
def conclude (r : Except Stop Nat) (s : State) : Result :=
  match r with
  | .ok v => .next (finish v s)
  | .error (.raised e) => .next (raise e s)
  | .error (.machine f) => .fault f

/-- The end of a build: a finished build gives its state and returns 0, a stopped one leaves `s`, the state with the valid
flag cleared (41_dense_index.md R95, 44_sparse.md R140, 60_exceptions.md R175). [log 18] -/
def concludeBuild (r : Except Stop State) (s : State) : Result :=
  match r with
  | .ok t => .next (finish 0 t)
  | .error (.raised e) => .next (raise e s)
  | .error (.machine f) => .fault f

end Sys2Proof.Machine
end

