-- ==== Sys2Proof/Machine/Operands.lean ====
section
/-! DEFINITION. The operand of a command (spec/30_encoding.md R62), and what the host registers show and take (10_state.md R11
to R21). -/

namespace Sys2Proof.Machine

/-- The operand of every command: the unsigned value of `ARG0`, used as it is (R62). -/
def State.operand (s : State) : Nat := s.arg0.toNat

/-- A parameter register of a structure that may be invalid reads 0 while it is (R19, R20). -/
def gated (valid : Bool) (v : Nat) : Word :=
  if valid then BitVec.ofNat wordBits v else 0

/-- `HostRead(n)`: the value of register `n` (R11 to R21), zero-extended to `W` bits. It changes nothing (20_memory.md
R48). -/
def hostRead (s : State) : HostReg → Word
  | .cmd => s.cmd.setWidth wordBits
  | .arg0 => s.arg0
  | .res => s.res
  | .status => (statusCode s.status).setWidth wordBits
  | .bufptr => s.bufptr
  | .bufdata => 0
  | .flags => s.flags.setWidth wordBits
  | .dlen => gated s.dvalid s.dv.length
  | .dr1max => gated s.dvalid s.dv.rank1Max
  | .slen => gated s.svalid s.sv.length
  | .sweight => gated s.svalid s.sv.weight
  | .slowlen => gated s.svalid s.sv.lowLength
  | .shighlen => gated s.svalid s.sv.highLength
  | .slowmask => gated s.svalid s.sv.lowMask
  | .reserved14 => 0
  | .reserved15 => 0

/-- `HostWrite(5, v)`, the load port: stores at `BUFPTR`, increments it and ends the lifetime of both structures, or discards
the byte (R17). That the fields of the two structures, unspecified by R28 from then on, stay as they were is the model's.
DESIGN CHOICE [log 19] -/
def loadByte (b : Byte) (s : State) : State :=
  if s.bufptr.toNat < s.bufBytes then
    { s with buf := s.buf.write s.bufptr.toNat b, bufptr := s.bufptr + 1 }
      |>.setDvalid false |>.setSvalid false |>.setSdegen false
  else s

/-- `HostWrite(n, v)` for every register but `CMD`: `ARG0` and `BUFPTR` take the value, `BUFDATA` loads it, a write to a
read-only or reserved register is ignored (R11, R13, R16, R17, R21). The write to `CMD` is `hostWrite`'s. -/
def writeRegister (r : HostReg) (v : Nat) (s : State) : State :=
  match r with
  | .cmd => { s with cmd := BitVec.ofNat 32 v }
  | .arg0 => { s with arg0 := BitVec.ofNat wordBits v }
  | .res => s
  | .status => s
  | .bufptr => { s with bufptr := BitVec.ofNat wordBits v }
  | .bufdata => loadByte (BitVec.ofNat 8 v) s
  | .flags => s
  | .dlen => s
  | .dr1max => s
  | .slen => s
  | .sweight => s
  | .slowlen => s
  | .shighlen => s
  | .slowmask => s
  | .reserved14 => s
  | .reserved15 => s

end Sys2Proof.Machine
end

