-- ==== Sys2Proof/Machine/BitField.lean ====
section
/-! DEFINITION. The bit-field packer and extractor, and the writer of the high bitmap (spec/43_bit_field.md). -/

namespace Sys2Proof.Machine

/-- Sets the bytes that hold `nbits` bits of a memory to 0. -/
def clearBits (m : ByteMemory) (nbits : Nat) (s : State) : Except Stop State :=
  forUp (fun b t => writeByte m b 0 t) 0 ((nbits + 7) / 8) s

/-- `LowClear(nbits)` (R135). -/
def lowClear (nbits : Nat) (s : State) : Except Stop State := clearBits .low nbits s

/-- `HighClear(nbits)` (R135). -/
def highClear (nbits : Nat) (s : State) : Except Stop State := clearBits .hbuf nbits s

/-- `LowPut(r, value)` (R132). -/
def lowPut (lowLength r value : Nat) (s : State) : Except Stop State :=
  forUp (fun t s' => if value.testBit t then setBit .low (r * lowLength + t) s' else .ok s') 0 lowLength s

/-- `LowGet(r)` (R133). -/
def lowGet (lowLength r : Nat) (s : State) : Except Stop Nat :=
  forUp (fun t value => do
      let b ← readBit .low (r * lowLength + t) s
      .ok (value + b.toNat * 2 ^ t)) 0 lowLength 0

/-- `HighEmit(offset, gap)`: the state with the element's own 1 bit set, and the next write offset (R134). -/
def highEmit (offset gap : Nat) (s : State) : Except Stop (State × Nat) := do
  let o := offset + gap
  let t ← setBit .hbuf o s
  .ok (t, o + 1)

end Sys2Proof.Machine
end

