-- ==== Sys2Proof/Machine/Primitives.lean ====
section
/-! DEFINITION. The bit primitives and their commands (spec/40_bit_primitives.md). -/

namespace Sys2Proof.Machine

/-- `popcount8(b) = b[0] + b[1] + ... + b[7]` (R80). -/
def popcount8 (b : Byte) : Nat :=
  (b.getLsbD 0).toNat + (b.getLsbD 1).toNat + (b.getLsbD 2).toNat + (b.getLsbD 3).toNat +
    (b.getLsbD 4).toNat + (b.getLsbD 5).toNat + (b.getLsbD 6).toNat + (b.getLsbD 7).toNat

/-- `log2Floor(x)` for `x >= 1`: "the largest natural `e` with `2^e <= x`" (R82). -/
def log2Floor (x : Nat) : Nat := Nat.log2 x

/-- `log2Ceil(x)` for `x >= 1`: "the smallest natural `e` with `2^e >= x`", by R83's identity
`log2Ceil(x) = log2Floor(x - 1) + 1` for `x >= 2`. -/
def log2Ceil (x : Nat) : Nat := if x ≤ 1 then 0 else log2Floor (x - 1) + 1

/-- `POPCNT8` (R81). -/
def execPopcnt8 (s : State) : Result :=
  conclude
    (if 255 < s.operand then .error (.raised .illegalOperand)
      else .ok (popcount8 (BitVec.ofNat 8 s.operand))) s

/-- `LOG2FLOOR` (R84). -/
def execLog2floor (s : State) : Result :=
  conclude (if s.operand = 0 then .error (.raised .illegalOperand) else .ok (log2Floor s.operand)) s

/-- `LOG2CEIL` (R85). -/
def execLog2ceil (s : State) : Result :=
  conclude (if s.operand = 0 then .error (.raised .illegalOperand) else .ok (log2Ceil s.operand)) s

end Sys2Proof.Machine
end

