-- ==== Sys2Proof/Machine/DenseIndex.lean ====
section
/-! DEFINITION. The two-level cumulative index: building it and walking it for rank (spec/41_dense_index.md). -/

namespace Sys2Proof.Machine

/-- The variables of `DenseBuild`'s loop (R90): the two accumulators and the two arrays being filled. -/
structure BuildVars where
  smallValue : Nat
  largeValue : Nat
  large : List Nat
  small : List Nat
  deriving DecidableEq, Repr

/-- The body of `DenseBuild`'s loop, for byte `i` (R90). -/
def denseBuildByte (src : Source) (length : Nat) (s : State) (i : Nat) (v : BuildVars) : Except Stop BuildVars := do
  let b ← validByte src length i s
  let smallValue := v.smallValue + popcount8 b
  if (i + 1) % 16 = 0 ∧ 8 * (i + 1) ≤ length then
    if (i + 1) % 8192 = 0 then
      let largeValue := v.largeValue + smallValue
      .ok { smallValue := 0, largeValue := largeValue, large := v.large.set ((i + 1) / 8192) largeValue,
            small := v.small.set ((i + 1) / 16) 0 }
    else
      .ok { v with smallValue := smallValue, small := v.small.set ((i + 1) / 16) smallValue }
  else
    .ok { v with smallValue := smallValue }

/-- `DenseBuild(src, length)` (R90). -/
def denseBuild (src : Source) (length : Nat) (s : State) : Except Stop DenseContext := do
  let nbytes := (length + 7) / 8
  let nlarge := length / 65536 + 1
  let nsmall := length / 128 + 1
  let v ← forUp (denseBuildByte src length s) 0 nbytes
    { smallValue := 0, largeValue := 0, large := List.replicate nlarge 0, small := List.replicate nsmall 0 }
  .ok { src := src, length := length, nbytes := nbytes, nlarge := nlarge, nsmall := nsmall, large := v.large,
        small := v.small, rank1Max := v.largeValue + v.smallValue }

/-- `DBUILD` after its valid flag is cleared: `Capacity`, or the new `DV` with `DVALID` set (R95). -/
def dbuildBody (s : State) : Except Stop State := do
  if s.maxLen < s.operand then .error (.raised .capacity)
  else
    let c ← denseBuild .buf s.operand s
    .ok ({ s with dv := c }.setDvalid true)

/-- `DBUILD` (R95). -/
def execDbuild (s : State) : Result :=
  concludeBuild (dbuildBody (s.setDvalid false)) (s.setDvalid false)

/-- `DenseRank1(c, pos)` (R97). -/
def denseRank1 (c : DenseContext) (pos : Nat) (s : State) : Except Stop Nat := do
  if c.length < pos then .error (.raised .outOfRange)
  else
    let l ← entry c.large (pos / 65536)
    let m ← entry c.small (pos / 128)
    let first := 16 * (pos / 128)
    let count ← forUp (fun b count => do
        let x ← readByte c.src.memory b s
        .ok (count + popcount8 x)) first (pos / 8 - first) (l + m)
    if pos % 8 ≠ 0 then
      let x ← readByte c.src.memory (pos / 8) s
      .ok (count + popcount8 (lowBits (pos % 8) x))
    else .ok count

/-- `DRANK1` (R96). -/
def execDrank1 (s : State) : Result :=
  conclude (if s.dvalid then denseRank1 s.dv s.operand s else .error (.raised .notBuilt)) s

end Sys2Proof.Machine
end

