-- ==== Sys2Proof/Machine/DenseSelect.lean ====
section
/-! DEFINITION. Select on a dense context (spec/42_dense_select.md). -/

namespace Sys2Proof.Machine

/-- `Total(c, v)` (R112). [log 9] -/
def total (c : DenseContext) (v : Bool) : Nat :=
  if v then c.rank1Max else c.length - c.rank1Max

/-- `CumL(c, k, v)` (R112). [log 9] -/
def cumL (c : DenseContext) (v : Bool) (k : Nat) : Except Stop Nat := do
  let l ← entry c.large k
  .ok (if v then l else 65536 * k - l)

/-- `CumS(c, j, v)` (R112). [log 9] -/
def cumS (c : DenseContext) (v : Bool) (j : Nat) : Except Stop Nat := do
  let l ← entry c.large (j / 512)
  let m ← entry c.small j
  .ok (if v then l + m else 128 * j - (l + m))

/-- Step 1: `k`, the largest index with `CumL(c, k, v) <= rank` (R113, R116). [log 15] -/
def selectLarge (c : DenseContext) (v : Bool) (rank : Nat) : Except Stop Nat :=
  lastWhere (fun k => do .ok (decide ((← cumL c v k) ≤ rank))) 0 c.nlarge

/-- Step 2: `j`, the largest index of large block `k`'s slice with `CumS(c, j, v) <= rank` (R114). -/
def selectSmall (c : DenseContext) (v : Bool) (rank k : Nat) : Except Stop Nat :=
  lastWhere (fun j => do .ok (decide ((← cumS c v j) ≤ rank))) (512 * k)
    (min (512 * k + 512) c.nsmall - 512 * k)

/-- Step 3: the bit scan of `n` positions from `p`, with `count` `v`-bits seen before (R115). -/
def scanBits (src : Source) (v : Bool) (rank : Nat) (s : State) : Nat → Nat → Nat → Except Stop Nat
  | 0, _, _ => .error (.raised .rankExceedsVector)
  | n + 1, p, count => do
    let b ← readBit src.memory p s
    if b = v then
      if count + 1 = rank + 1 then .ok p else scanBits src v rank s n (p + 1) (count + 1)
    else scanBits src v rank s n (p + 1) count

/-- `DenseSelect(c, rank, v)` (R111). [log 7] -/
def denseSelect (c : DenseContext) (rank : Nat) (v : Bool) (s : State) : Except Stop Nat := do
  if rank < total c v then
    let k ← selectLarge c v rank
    let j ← selectSmall c v rank k
    let count ← cumS c v j
    scanBits c.src v rank s (min (128 * j + 128) c.length - 128 * j) (128 * j) count
  else .error (.raised .rankOutOfRange)

/-- `DSELECT1` (R110). -/
def execDselect1 (s : State) : Result :=
  conclude (if s.dvalid then denseSelect s.dv s.operand true s else .error (.raised .notBuilt)) s

/-- `DSELECT0` (R118). -/
def execDselect0 (s : State) : Result :=
  conclude (if s.dvalid then denseSelect s.dv s.operand false s else .error (.raised .notBuilt)) s

/-- The loop of R116's `LowerBound(f, a, b, target)` with `lo`, `hi`; the fuel bounds its rounds, each of which shortens
`hi - lo`. -/
def lowerBoundLoop (f : Nat → Nat) (target : Nat) : Nat → Nat → Nat → Nat
  | 0, lo, _ => lo
  | fuel + 1, lo, hi =>
    if lo < hi then
      let mid := (lo + hi) / 2
      if target ≤ f mid then lowerBoundLoop f target fuel lo mid
      else lowerBoundLoop f target fuel (mid + 1) hi
    else lo

/-- The reference search `LowerBound(f, a, b, target)` of R116. "Only the values `k` and `j` are normative, not the search":
the commands use `selectLarge` and `selectSmall`. -/
def lowerBound (f : Nat → Nat) (a b target : Nat) : Nat :=
  lowerBoundLoop f target (b - a) a b

end Sys2Proof.Machine
end

