-- ==== Sys2Proof/Machine/Sparse.lean ====
section
/-! DEFINITION. The Elias-Fano encoder and decoder (spec/44_sparse.md). -/

namespace Sys2Proof.Machine

/-- The variables of pass 1 (R142). `lastSetPos` has a meaning only once `weight >= 1`. -/
structure PassOneVars where
  weight : Nat
  lastSetPos : Nat
  deriving DecidableEq, Repr

/-- Pass 1: the weight and the last set position of the `length` valid bits of `BUF` (R142). -/
def sparsePassOne (length : Nat) (s : State) : Except Stop PassOneVars :=
  forUp (fun i v => do
      if ← readBit .buf i s then .ok { weight := v.weight + 1, lastSetPos := i } else .ok v)
    0 length { weight := 0, lastSetPos := 0 }

/-- The variables of pass 2 (R140, R145), with the state whose `LOW` and `HBUF` are being written. -/
structure PassTwoVars where
  state : State
  r : Nat
  prevHighValue : Nat
  offset : Nat
  deriving DecidableEq, Repr

/-- The body of pass 2's loop, for bit `i` (R140, R145). -/
def sparsePassTwoBit (lowLength lowMask i : Nat) (v : PassTwoVars) : Except Stop PassTwoVars := do
  if ← readBit .buf i v.state then
    let t ← lowPut lowLength v.r (i &&& lowMask) v.state
    let highValue := i >>> lowLength
    let (t', offset) ← highEmit v.offset (highValue - v.prevHighValue) t
    .ok { state := t', r := v.r + 1, prevHighValue := highValue, offset := offset }
  else .ok v

/-- Pass 2: clear, then write every element's low code and high bits (R140, R145). -/
def sparsePassTwo (length weight lowLength lowMask hbits : Nat) (s : State) : Except Stop State := do
  let s1 ← lowClear (weight * lowLength) s
  let s2 ← highClear hbits s1
  let v ← forUp (sparsePassTwoBit lowLength lowMask) 0 length { state := s2, r := 0, prevHighValue := 0, offset := 0 }
  .ok v.state

/-- The parameters of R143, with the fields that the build fills in later as `degenerate` and `inner` are given. -/
def sparseParameters (length : Nat) (p : PassOneVars) (degenerate : Bool) (inner : DenseContext) : SparseContext :=
  let lowLength := log2Floor (length / p.weight)
  { length := length, weight := p.weight, lowLength := lowLength, highLength := log2Ceil length - lowLength,
    lowMask := 2 ^ lowLength - 1, degenerate := degenerate, lastSetPos := p.lastSetPos, inner := inner }

/-- `SBUILD` after its flags are cleared (R140): `Capacity`, `ZeroWeight` (R141), the degenerate branch (R144), or pass 2 and
the inner build over the high bitmap (R145). -/
def sbuildBody (s : State) : Except Stop State := do
  if s.maxLen < s.operand then .error (.raised .capacity)
  else
    let length := s.operand
    let p ← sparsePassOne length s
    if p.weight = 0 then .error (.raised .zeroWeight)
    else
      let lowLength := log2Floor (length / p.weight)
      if lowLength = 0 then
        let inner ← denseBuild .buf length s
        .ok ({ s with sv := sparseParameters length p true inner }.setSdegen true |>.setSvalid true)
      else
        let hbits := p.weight + (p.lastSetPos >>> lowLength)
        let t ← sparsePassTwo length p.weight lowLength (2 ^ lowLength - 1) hbits s
        let inner ← denseBuild .hbuf hbits t
        .ok ({ t with sv := sparseParameters length p false inner }.setSvalid true)

/-- `SBUILD` (R140). -/
def execSbuild (s : State) : Result :=
  concludeBuild (sbuildBody (s.setSvalid false |>.setSdegen false)) (s.setSvalid false |>.setSdegen false)

/-- The walk of R151 over at most `fuel` bits of the high bitmap: the elements of bucket `highRank0`, in order. -/
def sparseWalk (lowLength highRank0 pos : Nat) (src : Source) (s : State) : Nat → Nat → Nat → Except Stop Nat
  | 0, _, n => .ok n
  | fuel + 1, offset, n => do
    if ← readBit src.memory offset s then
      let low ← lowGet lowLength n s
      if pos ≤ (highRank0 <<< lowLength) ||| low then .ok n
      else sparseWalk lowLength highRank0 pos src s fuel (offset + 1) (n + 1)
    else .ok n

/-- The walk's start in R151: one past the `highRank0`-th zero of the bitmap, or 0. -/
def sparseWalkStart (c : DenseContext) (highRank0 : Nat) (s : State) : Except Stop Nat :=
  if highRank0 = 0 then .ok 0
  else do
    let z ← denseSelect c (highRank0 - 1) false s
    .ok (z + 1)

/-- `SparseRank1General(pos)` (R151). -/
def sparseRank1General (v : SparseContext) (pos : Nat) (s : State) : Except Stop Nat := do
  if v.length < pos then .error (.raised .outOfRange)
  else
    let highRank0 := pos >>> v.lowLength
    if v.inner.length - v.inner.rank1Max < highRank0 then .ok v.weight
    else
      let offset ← sparseWalkStart v.inner highRank0 s
      sparseWalk v.lowLength highRank0 pos v.inner.src s (v.inner.length - offset) offset (offset - highRank0)

/-- `SRANK1` (R150). -/
def execSrank1 (s : State) : Result :=
  conclude
    (if s.svalid then
      if s.sv.degenerate then denseRank1 s.sv.inner s.operand s else sparseRank1General s.sv s.operand s
    else .error (.raised .notBuilt)) s

/-- `SparseSelect1General(rank)` (R159). -/
def sparseSelect1General (v : SparseContext) (rank : Nat) (s : State) : Except Stop Nat := do
  let p ← denseSelect v.inner rank true s
  let low ← lowGet v.lowLength rank s
  .ok (((p - rank) <<< v.lowLength) ||| low)

/-- `SSELECT1` (R158). -/
def execSselect1 (s : State) : Result :=
  conclude
    (if s.svalid then
      if s.sv.degenerate then denseSelect s.sv.inner s.operand true s else sparseSelect1General s.sv s.operand s
    else .error (.raised .notBuilt)) s

end Sys2Proof.Machine
end

