-- ==== Sys2Proof/Machine/Dispatch.lean ====
section
/-! DEFINITION. The meaning of every instruction, by constructor. -/

namespace Sys2Proof.Machine

/-- What each command does in a state whose `CMD` already holds its word (spec/30_encoding.md R68). -/
def exec (i : Instr) (s : State) : Host.Outcome State Fault Refusal :=
  match i with
  | .popcnt8 => Sys2Proof.Machine.execPopcnt8 s
  | .log2floor => Sys2Proof.Machine.execLog2floor s
  | .log2ceil => Sys2Proof.Machine.execLog2ceil s
  | .dbuild => Sys2Proof.Machine.execDbuild s
  | .drank1 => Sys2Proof.Machine.execDrank1 s
  | .dselect1 => Sys2Proof.Machine.execDselect1 s
  | .dselect0 => Sys2Proof.Machine.execDselect0 s
  | .sbuild => Sys2Proof.Machine.execSbuild s
  | .srank1 => Sys2Proof.Machine.execSrank1 s
  | .sselect1 => Sys2Proof.Machine.execSselect1 s

end Sys2Proof.Machine
end

