-- ==== Sys2Proof/Machine/Transactions.lean ====
section
/-! DEFINITION. What one input of the unit does: the two host transactions (spec/10_state.md R10) and reset
(70_reset_and_hazards.md R190). -/

namespace Sys2Proof.Machine

/-- `HostWrite(0, word)`: `CMD <- word`, then the whole command, or `IllegalCommand` (10_state.md R12, 30_encoding.md
R68). -/
def issueCommand (w : BitVec 32) (s : State) : Result :=
  match decode w with
  | .ok i => exec i { s with cmd := w }
  | .error _ => .next (raise .illegalCommand { s with cmd := w })

/-- `HostWrite(n, v)` for an existing register and a value of its width (10_state.md R10 to R21). -/
def hostWrite (r : HostReg) (v : Nat) (s : State) : Result :=
  match r with
  | .cmd => issueCommand (BitVec.ofNat 32 v) s
  | _ => .next (writeRegister r v s)

/-- The reset event: every piece of the unit's state takes its reset value, the memories' bytes are unknown anew; the
capacity, the host's side and the count of failures stay (R190, 10_state.md R38). [log 12] -/
def resetEvent (s : State) : State :=
  { State.reset with
    bufBytes := s.bufBytes, powerUps := s.powerUps + 1, draws := s.draws, inputs := s.inputs, outputs := s.outputs }

/-- One input. What is no transaction of the unit is refused (10_state.md R10, R21). [log 11] -/
def perform (t : HostInput) (s : State) : Result :=
  match t with
  | .write n v =>
    match HostReg.ofNumber n with
    | none => .refused (.noSuchRegister n)
    | some r => if v < 2 ^ r.width then hostWrite r v s else .refused (.valueTooWide n v)
  | .read n =>
    match HostReg.ofNumber n with
    | none => .refused (.noSuchRegister n)
    | some r => .next { s with outputs := s.outputs ++ [hostRead s r] }
  | .reset => .next (resetEvent s)

end Sys2Proof.Machine
end

