-- ==== Sys2Proof/Machine/Step.lean ====
section
/-! DEFINITION. One step: the unit takes the host's next input (spec/10_state.md R10). -/

namespace Sys2Proof.Machine

/-- The next transaction, in order, each one atomic step (R10); with none pending the unit does nothing. [log 1] -/
def step (s : State) : Host.Outcome State Fault Refusal :=
  match s.inputs with
  | [] => .next s
  | t :: rest => perform t { s with inputs := rest }

/-- The state whose next input is the host's write of this command word to `CMD` (30_encoding.md R60). [log 1] [log 16] -/
def State.withFetchWord (s : State) (nbits w : Nat) : State :=
  { s with inputs := .write 0 (w % 2 ^ nbits % 2 ^ 32) :: s.inputs }

end Sys2Proof.Machine
end

