-- ==== Sys2Proof/Machine/Bits.lean ====
section
/-! DEFINITION. The specification functions of spec/20_memory.md R41 to R43 (`Bit`, `Ones`, `Zeros`) and the set positions of
a bit sequence (44_sparse.md R146). The statements speak through them; no command's meaning calls them. -/

namespace Sys2Proof.Machine

/-- Bit `o` of a byte memory (20_memory.md R41, 43_bit_field.md R130). -/
def State.bitAt (s : State) (m : ByteMemory) (o : Nat) : Bool :=
  (s.peek m (o / 8)).getLsbD (o % 8)

/-- `Ones(c, a, b)` for a context with source `src`: how many positions of `[a, b)` hold a 1 (R43). -/
def State.ones (s : State) (src : Source) (a b : Nat) : Nat :=
  (List.range' a (b - a)).countP (s.bitAt src.memory)

/-- `Zeros(c, a, b)` (R43). -/
def State.zeros (s : State) (src : Source) (a b : Nat) : Nat :=
  (b - a) - s.ones src a b

/-- How many positions of `[a, b)` hold bit `v`. -/
def State.count (s : State) (src : Source) (v : Bool) (a b : Nat) : Nat :=
  if v then s.ones src a b else s.zeros src a b

/-- `p_0 < p_1 < ...`: the positions below `length` that hold a 1, in order (44_sparse.md R146). -/
def State.setPositions (s : State) (src : Source) (length : Nat) : List Nat :=
  (List.range length).filter (s.bitAt src.memory)

/-- `p_i`, the `i`-th set position (44_sparse.md R146); 0 where there is none. -/
def State.setPosition (s : State) (src : Source) (length i : Nat) : Nat :=
  ((s.setPositions src length)[i]?).getD 0

end Sys2Proof.Machine
end

