-- ==== Sys2Proof/Safety.lean ====
section
/-! DEFINITION. What the statements speak of: when a built structure is what the spec says it is (spec/10_state.md R23 to R33),
the invariant of the machine, and what it is for a command to answer, to fail, and to keep the rest. -/

namespace Sys2Proof.Machine

/-- `c` is a built dense context over the bytes the machine holds: the sizes of R23 and the entries of R24, R25 and R26
(the postcondition 41_dense_index.md R91). -/
structure DenseOk (s : State) (c : DenseContext) : Prop where
  length_le : c.length ≤ s.maxLen
  nbytes_eq : c.nbytes = (c.length + 7) / 8
  nlarge_eq : c.nlarge = c.length / 65536 + 1
  nsmall_eq : c.nsmall = c.length / 128 + 1
  large_length : c.large.length = c.nlarge
  small_length : c.small.length = c.nsmall
  large_eq : ∀ k, k < c.nlarge → c.large[k]? = some (s.ones c.src 0 (65536 * k))
  small_eq : ∀ j, j < c.nsmall → c.small[j]? = some (s.ones c.src (65536 * (j / 512)) (128 * j))
  rank1Max_eq : c.rank1Max = s.ones c.src 0 c.length

/-- `SV` is a built sparse structure over the bytes the machine holds: the fields of R29, the inner context of R31 or R32, and
in the general form the high bits and low codes of 44_sparse.md R146. -/
structure SparseOk (s : State) : Prop where
  length_le : s.sv.length ≤ s.maxLen
  weight_pos : 1 ≤ s.sv.weight
  weight_eq : s.sv.weight = s.ones .buf 0 s.sv.length
  lastSetPos_eq : s.sv.lastSetPos = s.setPosition .buf s.sv.length (s.sv.weight - 1)
  lowLength_eq : s.sv.lowLength = log2Floor (s.sv.length / s.sv.weight)
  highLength_eq : s.sv.highLength = log2Ceil s.sv.length - s.sv.lowLength
  lowMask_eq : s.sv.lowMask = 2 ^ s.sv.lowLength - 1
  degenerate_eq : s.sv.degenerate = decide (s.sv.lowLength = 0)
  sdegen_eq : s.sdegen = s.sv.degenerate
  inner_ok : DenseOk s s.sv.inner
  degenerate_inner : s.sv.degenerate = true → s.sv.inner.src = .buf ∧ s.sv.inner.length = s.sv.length
  general_inner : s.sv.degenerate = false →
    s.sv.inner.src = .hbuf ∧ s.sv.inner.length = s.sv.weight + (s.sv.lastSetPos >>> s.sv.lowLength)
  high_bits : s.sv.degenerate = false → ∀ o, o < s.sv.inner.length →
    s.bitAt .hbuf o =
      decide (∃ i, i < s.sv.weight ∧ o = (s.setPosition .buf s.sv.length i >>> s.sv.lowLength) + i)
  low_bits : s.sv.degenerate = false → ∀ i, i < s.sv.weight → ∀ t, t < s.sv.lowLength →
    s.bitAt .low (i * s.sv.lowLength + t) = (s.setPosition .buf s.sv.length i).testBit t

/-- The part of the invariant that speaks of no structure: R6's bound on the capacity, the canonical form and range of the
memories, and "0 whenever `SVALID = 0`" of `SDEGEN` (R18). -/
structure CoreInv (s : State) : Prop where
  bufBytes_le : s.bufBytes ≤ 2 ^ 60
  buf_wf : Memory.wf s.buf = true
  hbuf_wf : Memory.wf s.hbuf = true
  low_wf : Memory.wf s.low = true
  buf_range : ∀ x ∈ s.buf, x.1 < s.bufBytes
  hbuf_range : ∀ x ∈ s.hbuf, x.1 < s.bufBytes
  low_range : ∀ x ∈ s.low, x.1 < s.bufBytes
  sdegen_svalid : s.svalid = false → s.sdegen = false

/-- A valid `DV` is a built dense context over `BUF` (R28). -/
def DenseInv (s : State) : Prop := s.dvalid = true → s.dv.src = .buf ∧ DenseOk s s.dv

/-- A valid `SV` is a built sparse structure (R29 to R33). -/
def SparseInv (s : State) : Prop := s.svalid = true → SparseOk s

/-- The invariant of the machine. -/
structure Inv (s : State) : Prop where
  core : CoreInv s
  dense : DenseInv s
  sparse : SparseInv s

/-- Command `i` succeeds with value `v` and changes nothing but `RES` and `STATUS` (30_encoding.md R68). -/
def Answers (i : Instr) (s : State) (v : Nat) : Prop :=
  exec i s = .next { s with res := BitVec.ofNat wordBits v, status := .ok }

/-- Command `i` fails with condition `e`: `RES` holds some value, nothing else of the unit changes (60_exceptions.md
R175). -/
def FailsWith (i : Instr) (s : State) (e : Failure) : Prop :=
  ∃ r n, exec i s = .next { s with res := r, status := .failed e, draws := n }

/-- The state after `HostWrite(1, v)`: operand `v` (R13). -/
def State.ask (s : State) (v : Nat) : State := { s with arg0 := BitVec.ofNat wordBits v }

/-- The sparse and the dense structure of state `u` give the same answers: for every operand the two ranks end with the same
`STATUS`, and the same `RES` when it is OK, and so do the two selects (44_sparse.md R161). -/
def SparseAgreesWithDense (u : State) : Prop :=
  ∀ v, v < 2 ^ wordBits →
    (∃ a b, exec .drank1 (u.ask v) = .next a ∧ exec .srank1 (u.ask v) = .next b ∧ b.status = a.status ∧
      (a.status = .ok → b.res = a.res)) ∧
    (∃ a b, exec .dselect1 (u.ask v) = .next a ∧ exec .sselect1 (u.ask v) = .next b ∧ b.status = a.status ∧
      (a.status = .ok → b.res = a.res))

/-- The commands that build nothing: the bit primitives and the queries (R37, 20_memory.md R46). -/
def readsOnly : Instr → Bool
  | .dbuild => false
  | .sbuild => false
  | .popcnt8 => true
  | .log2floor => true
  | .log2ceil => true
  | .drank1 => true
  | .dselect1 => true
  | .dselect0 => true
  | .srank1 => true
  | .sselect1 => true

end Sys2Proof.Machine
end

