-- ==== Sys2Proof/Certificates/Slice0/Obligations.lean ====
section
/-! DEFINITION. The statements for the provers: the numbered rules of spec/ that say what the unit does. Where a statement
speaks of `RES` after a failure it says only that some value stands there (10_state.md R14), and it leaves the model's own count
of failures open (log 4). The pending inputs and the outputs, in which transactions are written down, are the model's own fields
(log 1, log 2). -/

open Sys2Proof Sys2Proof.Machine

/-! ## Encoding and issue of commands (30_encoding.md) -/

/-- R61, R60: the ten command words, written out bit by bit, decode to their commands. -/
def Obligations.TenCommandWordsDecode : Prop :=
  decode 0b00000000000000000000000000000001#32 = .ok .popcnt8 ∧
  decode 0b00000000000000000000000000000010#32 = .ok .log2floor ∧
  decode 0b00000000000000000000000000000011#32 = .ok .log2ceil ∧
  decode 0b00000000000000000000000000010000#32 = .ok .dbuild ∧
  decode 0b00000000000000000000000000010001#32 = .ok .drank1 ∧
  decode 0b00000000000000000000000000010010#32 = .ok .dselect1 ∧
  decode 0b00000000000000000000000000010011#32 = .ok .dselect0 ∧
  decode 0b00000000000000000000000000100000#32 = .ok .sbuild ∧
  decode 0b00000000000000000000000000100001#32 = .ok .srank1 ∧
  decode 0b00000000000000000000000000100010#32 = .ok .sselect1

/-- R61, R64: a word decodes to a command exactly when it is that command's encoding, and the encodings are the ten words of
the table. -/
def Obligations.DecodeAndEncodeAgreeOnEveryWord : Prop :=
  (∀ (w : BitVec 32) (i : Instr), i.wellFormed = true → (decode w = .ok i ↔ w = encode i)) ∧
  ∀ w : BitVec 32, (∃ i, decode w = .ok i) ↔
    w.toNat ∈ [0x01, 0x02, 0x03, 0x10, 0x11, 0x12, 0x13, 0x20, 0x21, 0x22]

/-- R64: which words are illegal, and that an illegal command ends with `STATUS = 6`, some `RES`, and no other change
(`CMD` holds the word). -/
def Obligations.IllegalWordChangesOnlyCmdStatusRes : Prop :=
  (∀ w : BitVec 32,
    w.toNat ∉ [0x01, 0x02, 0x03, 0x10, 0x11, 0x12, 0x13, 0x20, 0x21, 0x22] ↔
      w.extractLsb' 8 24 ≠ 0 ∨
        ((w.extractLsb' 0 8).toNat = 0x00 ∨
          (0x04 ≤ (w.extractLsb' 0 8).toNat ∧ (w.extractLsb' 0 8).toNat ≤ 0x0F) ∨
          (0x14 ≤ (w.extractLsb' 0 8).toNat ∧ (w.extractLsb' 0 8).toNat ≤ 0x1F) ∨
          (0x23 ≤ (w.extractLsb' 0 8).toNat ∧ (w.extractLsb' 0 8).toNat ≤ 0xFF))) ∧
  ∀ (s : State) (w : BitVec 32) (rest : List HostInput), s.inputs = .write 0 w.toNat :: rest →
    w.toNat ∉ [0x01, 0x02, 0x03, 0x10, 0x11, 0x12, 0x13, 0x20, 0x21, 0x22] →
    ∃ t, step s = .next t ∧ statusCode t.status = 6 ∧
      t = { s with inputs := rest, cmd := w, status := .failed .illegalCommand, res := t.res, draws := t.draws }

/-- R12, R68: a write to `CMD` stores the word and then executes the command it encodes, or fails with `IllegalCommand`; a
read returns the last word written, 0 after reset, and does nothing else; nothing but such a write and reset changes `CMD`. -/
def Obligations.CmdWriteRunsTheDecodedCommand : Prop :=
  (∀ (s : State) (w : BitVec 32) (rest : List HostInput) (i : Instr), s.inputs = .write 0 w.toNat :: rest →
    decode w = .ok i → step s = exec i { s with inputs := rest, cmd := w }) ∧
  (∀ (s : State) (w : BitVec 32) (rest : List HostInput) (x : DecodeRejection), s.inputs = .write 0 w.toNat :: rest →
    decode w = .error x → ∃ r n, step s =
      .next { s with inputs := rest, cmd := w, res := r, status := .failed .illegalCommand, draws := n }) ∧
  (∀ (s : State) (rest : List HostInput), s.inputs = .read 0 :: rest →
    step s = .next { s with inputs := rest, outputs := s.outputs ++ [s.cmd.setWidth 64] }) ∧
  (∀ s t : State, step s = .next t →
    (∀ (w : BitVec 32) (rest : List HostInput), s.inputs = .write 0 w.toNat :: rest → t.cmd = w) ∧
    ((∀ w, s.inputs.head? ≠ some (.write 0 w)) → s.inputs.head? ≠ some .reset → t.cmd = s.cmd)) ∧
  State.reset.cmd = 0

/-! ## The host registers (10_state.md) -/

/-- R11 to R21, R48, R63: what `HostRead` of each register returns, register number and `STATUS` code written out, and that it
changes nothing. The model's `hostRead` and `HostReg.number`, which other statements use, agree with that. -/
def Obligations.HostReadReturnsTheRegisterAndChangesNothing : Prop :=
  [HostReg.cmd, .arg0, .res, .status, .bufptr, .bufdata, .flags, .dlen, .dr1max, .slen, .sweight, .slowlen, .shighlen,
    .slowmask, .reserved14, .reserved15].map HostReg.number = [0, 1, 2, 3, 4, 5, 6, 7, 8, 9, 10, 11, 12, 13, 14, 15] ∧
  ∀ (s : State) (rest : List HostInput),
    let answers (n : Nat) (v : BitVec 64) : Prop :=
      s.inputs = .read n :: rest → step s = .next { s with inputs := rest, outputs := s.outputs ++ [v] }
    let gatedBy (k v : Nat) : BitVec 64 := if s.flags.getLsbD k then BitVec.ofNat 64 v else 0
    answers 0 (BitVec.ofNat 64 s.cmd.toNat) ∧
    answers 1 s.arg0 ∧
    answers 2 s.res ∧
    answers 3 (match s.status with
      | .ok => 0
      | .failed .outOfRange => 1
      | .failed .rankOutOfRange => 2
      | .failed .rankExceedsVector => 3
      | .failed .zeroWeight => 4
      | .failed .notBuilt => 5
      | .failed .illegalCommand => 6
      | .failed .capacity => 7
      | .failed .illegalOperand => 8) ∧
    answers 4 s.bufptr ∧
    answers 5 0 ∧
    answers 6 (BitVec.ofNat 64 s.flags.toNat) ∧
    answers 7 (gatedBy 0 s.dv.length) ∧
    answers 8 (gatedBy 0 s.dv.rank1Max) ∧
    answers 9 (gatedBy 1 s.sv.length) ∧
    answers 10 (gatedBy 1 s.sv.weight) ∧
    answers 11 (gatedBy 1 s.sv.lowLength) ∧
    answers 12 (gatedBy 1 s.sv.highLength) ∧
    answers 13 (gatedBy 1 s.sv.lowMask) ∧
    answers 14 0 ∧
    answers 15 0 ∧
    ∀ r : HostReg, answers r.number (hostRead s r)

/-- R11, R21: a write to a read-only or reserved register changes nothing; each such register stands here with its number and
width. A number above 15 is no register: the transaction is refused. That a write presents 64 bits to a reserved register, and
that a non-transaction is refused, are the model's (log 10, log 11). -/
def Obligations.ReadOnlyAndReservedRegistersIgnoreWrites : Prop :=
  (∀ (s : State) (n width v : Nat) (rest : List HostInput),
    (n, width) ∈ [(2, 64), (3, 4), (6, 3), (7, 64), (8, 64), (9, 64), (10, 64), (11, 64), (12, 64), (13, 64), (14, 64),
      (15, 64)] →
    v < 2 ^ width → s.inputs = .write n v :: rest → step s = .next { s with inputs := rest }) ∧
  ∀ (s : State) (n v : Nat) (rest : List HostInput), 15 < n →
    (s.inputs = .write n v :: rest → step s = .refused (.noSuchRegister n)) ∧
    (s.inputs = .read n :: rest → step s = .refused (.noSuchRegister n))

/-- R13, R16: `ARG0` and `BUFPTR` take any 64-bit value, and nothing else changes. -/
def Obligations.Arg0AndBufptrTakeTheWrittenValue : Prop :=
  ∀ (s : State) (v : BitVec 64) (rest : List HostInput),
    (s.inputs = .write 1 v.toNat :: rest → step s = .next { s with inputs := rest, arg0 := v }) ∧
    (s.inputs = .write 4 v.toNat :: rest → step s = .next { s with inputs := rest, bufptr := v })

/-- R17: the load port stores at `BUFPTR`, increments it without wrapping and clears the flags, or discards the byte; a read
returns 0 and changes nothing. The premise on the capacity is R6's constraint. That the fields of the structures it invalidates
stay as they were is the model's choice (log 19). -/
def Obligations.LoadPortStoresOrDiscards : Prop :=
  (∀ (s : State) (v : BitVec 8) (rest : List HostInput), s.bufBytes ≤ 2 ^ 60 →
    s.inputs = .write 5 v.toNat :: rest → s.bufptr.toNat < s.bufBytes →
    ∃ t, step s = .next t ∧ t = { s with inputs := rest, buf := t.buf, bufptr := t.bufptr, flags := 0 } ∧
      t.bufptr.toNat = s.bufptr.toNat + 1 ∧
      ∀ a, t.peek .buf a = if a = s.bufptr.toNat then v else s.peek .buf a) ∧
  (∀ (s : State) (v : BitVec 8) (rest : List HostInput), s.inputs = .write 5 v.toNat :: rest →
    s.bufBytes ≤ s.bufptr.toNat → step s = .next { s with inputs := rest }) ∧
  ∀ (s : State) (rest : List HostInput), s.inputs = .read 5 :: rest →
    step s = .next { s with inputs := rest, outputs := s.outputs ++ [0] }

/-- R15, R14: nothing but a command or reset changes `STATUS` or `RES`. -/
def Obligations.OnlyCommandsAndResetChangeStatusAndRes : Prop :=
  ∀ s t : State, step s = .next t → (∀ w, s.inputs.head? ≠ some (.write 0 w)) → s.inputs.head? ≠ some .reset →
    t.status = s.status ∧ t.res = s.res

/-- R18: which events set and clear the bits of `FLAGS`. -/
def Obligations.FlagsChangeOnlyByBuildsLoadsAndReset : Prop :=
  ∀ s t : State, step s = .next t →
    (s.dvalid = false → t.dvalid = true → s.inputs.head? = some (.write 0 0x10) ∧ t.status = .ok) ∧
    (s.svalid = false → t.svalid = true → s.inputs.head? = some (.write 0 0x20) ∧ t.status = .ok) ∧
    (s.sdegen = false → t.sdegen = true →
      s.inputs.head? = some (.write 0 0x20) ∧ t.status = .ok ∧ t.sv.lowLength = 0) ∧
    (s.dvalid = true → t.dvalid = false → s.inputs.head? = some .reset ∨ s.inputs.head? = some (.write 0 0x10) ∨
      ((∃ v, s.inputs.head? = some (.write 5 v)) ∧ s.bufptr.toNat < s.bufBytes)) ∧
    (s.svalid = true → t.svalid = false → s.inputs.head? = some .reset ∨ s.inputs.head? = some (.write 0 0x20) ∨
      ((∃ v, s.inputs.head? = some (.write 5 v)) ∧ s.bufptr.toNat < s.bufBytes)) ∧
    (s.sdegen = true → t.sdegen = false → s.inputs.head? = some .reset ∨
      (s.inputs.head? = some (.write 0 0x20) ∧ (t.status = .ok → t.sv.lowLength ≠ 0)) ∨
      ((∃ v, s.inputs.head? = some (.write 5 v)) ∧ s.bufptr.toNat < s.bufBytes))

/-- R190, R38: the reset event puts the registers and flags to 0, makes every memory byte unknown anew, and leaves the
capacity; then every query fails with `NotBuilt`, every parameter register reads 0, and a build of any length the buffer can
hold is not refused for capacity. What it does to the model's own fields is the model's choice (log 12). -/
def Obligations.ResetEventGivesTheResetState : Prop :=
  ∀ (s : State) (rest : List HostInput), s.inputs = .reset :: rest →
    ∃ t, step s = .next t ∧ t.cmd = 0 ∧ t.arg0 = 0 ∧ t.res = 0 ∧ t.status = .ok ∧ t.bufptr = 0 ∧ t.flags = 0 ∧
      t.bufBytes = s.bufBytes ∧ t.inputs = rest ∧ t.outputs = s.outputs ∧
      (∀ m a, t.peek m a = Config.unwrittenByte m (s.powerUps + 1) a) ∧
      (∀ r, r ∈ [HostReg.dlen, .dr1max, .slen, .sweight, .slowlen, .shighlen, .slowmask] → hostRead t r = 0) ∧
      (∀ i, i ∈ [Instr.drank1, .dselect1, .dselect0, .srank1, .sselect1] → ∀ v, FailsWith i (t.ask v) .notBuilt) ∧
      ∀ v, v ≤ t.maxLen → v < 2 ^ 64 → ∃ u, exec .dbuild (t.ask v) = .next u ∧ u.status = .ok ∧ u.dv.length = v

/-- R7, R19, R20: while a structure is valid, its parameter registers show its values exactly: nothing is cut off at 64
bits. -/
def Obligations.ParameterRegistersShowExactValues : Prop :=
  ∀ s : State, Inv s →
    (s.dvalid = true → (hostRead s .dlen).toNat = s.dv.length ∧ (hostRead s .dr1max).toNat = s.dv.rank1Max) ∧
    (s.svalid = true → (hostRead s .slen).toNat = s.sv.length ∧ (hostRead s .sweight).toNat = s.sv.weight ∧
      (hostRead s .slowlen).toNat = s.sv.lowLength ∧ (hostRead s .shighlen).toNat = s.sv.highLength ∧
      (hostRead s .slowmask).toNat = s.sv.lowMask)

/-! ## Bit primitives (40_bit_primitives.md) -/

/-- R81, R80: `POPCNT8` of a byte is the number of its 1 bits; any other operand is refused. -/
def Obligations.Popcnt8CountsTheOnesOfAByte : Prop :=
  ∀ s : State,
    (s.arg0.toNat ≤ 255 → exec .popcnt8 s =
      .next { s with res := BitVec.ofNat 64 ((List.range 8).countP fun k => s.arg0.getLsbD k), status := .ok }) ∧
    (255 < s.arg0.toNat → ∃ r n, exec .popcnt8 s =
      .next { s with res := r, status := .failed .illegalOperand, draws := n })

/-- R84, R82: `LOG2FLOOR` is the largest `e` with `2^e <= ARG0`, 0 to 63; `ARG0 = 0` is refused. -/
def Obligations.Log2FloorIsTheLargestPowerBelow : Prop :=
  ∀ s : State,
    (s.arg0.toNat ≠ 0 → ∃ e, exec .log2floor s = .next { s with res := BitVec.ofNat 64 e, status := .ok } ∧
      e ≤ 63 ∧ 2 ^ e ≤ s.arg0.toNat ∧ ∀ d, 2 ^ d ≤ s.arg0.toNat → d ≤ e) ∧
    (s.arg0.toNat = 0 → ∃ r n, exec .log2floor s =
      .next { s with res := r, status := .failed .illegalOperand, draws := n })

/-- R85, R83: `LOG2CEIL` is the smallest `e` with `2^e >= ARG0`, 0 to 64; `ARG0 = 0` is refused. -/
def Obligations.Log2CeilIsTheSmallestPowerAbove : Prop :=
  ∀ s : State,
    (s.arg0.toNat ≠ 0 → ∃ e, exec .log2ceil s = .next { s with res := BitVec.ofNat 64 e, status := .ok } ∧
      e ≤ 64 ∧ s.arg0.toNat ≤ 2 ^ e ∧ ∀ d, s.arg0.toNat ≤ 2 ^ d → e ≤ d) ∧
    (s.arg0.toNat = 0 → ∃ r n, exec .log2ceil s =
      .next { s with res := r, status := .failed .illegalOperand, draws := n })

/-! ## The dense index (41_dense_index.md) -/

/-- R42: `VB` is the byte with its padding bits 0: bit `k` of `VB(c, b)` is the sequence's bit `8*b + k` where that position
is valid, and 0 where it is padding. -/
def Obligations.ValidByteClearsThePadding : Prop :=
  ∀ (s : State) (src : Source) (length b : Nat), b < (length + 7) / 8 → length ≤ s.maxLen →
    ∃ x, validByte src length b s = .ok x ∧
      ∀ k, k < 8 → x.getLsbD k = (decide (8 * b + k < length) && s.bitAt src.memory (8 * b + k))

/-- R92: `DenseBuild` cannot fail on a length the buffer can hold; the empty vector's context is the one the rule lists. -/
def Obligations.DenseBuildCannotFail : Prop :=
  (∀ (s : State) (src : Source) (length : Nat), length ≤ s.maxLen → ∃ c, denseBuild src length s = .ok c) ∧
  ∀ (s : State) (src : Source), denseBuild src 0 s = .ok
    { src := src, length := 0, nbytes := 0, nlarge := 1, nsmall := 1, large := [0], small := [0], rank1Max := 0 }

/-- R95, R91: `DBUILD` builds a context over `BUF` that meets R23 to R26 and sets `DVALID`, or fails with `Capacity` and
clears it; it changes nothing else. That the discarded `DV` keeps its fields when the build fails is the model's choice
(log 18). -/
def Obligations.DbuildBuildsTheIndexOrRefuses : Prop :=
  ∀ s : State,
    (s.arg0.toNat ≤ s.maxLen → ∃ c, exec .dbuild s =
        .next { s with flags := s.flags ||| 1#3, dv := c, res := 0, status := .ok } ∧
      c.src = .buf ∧ c.length = s.arg0.toNat ∧ DenseOk s c) ∧
    (s.maxLen < s.arg0.toNat → ∃ r n, exec .dbuild s =
      .next { s with flags := s.flags &&& 6#3, res := r, status := .failed .capacity, draws := n })

/-- R27: the invariants of a built dense context. -/
def Obligations.IndexEntriesGrowByAtMostABlock : Prop :=
  ∀ (s : State) (c : DenseContext), DenseOk s c →
    (∀ k, k + 1 < c.nlarge → ∃ x y, c.large[k]? = some x ∧ c.large[k + 1]? = some y ∧ x ≤ y ∧ y ≤ x + 65536) ∧
    (∀ j, j + 1 < c.nsmall → (j + 1) % 512 ≠ 0 →
      ∃ x y, c.small[j]? = some x ∧ c.small[j + 1]? = some y ∧ x ≤ y ∧ y ≤ x + 128) ∧
    ∃ x y, c.large[c.nlarge - 1]? = some x ∧ c.small[c.nsmall - 1]? = some y ∧
      x + y + s.ones c.src (128 * (c.nsmall - 1)) c.length = c.rank1Max

/-- R25, R35: an entry of `small[]` is at most 65408 and so fits the 16 bits the memory has for it; an entry of `large[]` is
at most the length. -/
def Obligations.IndexEntriesFitTheirMemories : Prop :=
  ∀ (s : State) (c : DenseContext), DenseOk s c →
    (∀ x ∈ c.small, x ≤ 65408) ∧ ∀ x ∈ c.large, x ≤ c.length

/-- R42, R90, 90_conflicts.md C1: what a build makes depends on the valid bits alone, not on the padding or on any byte
beyond. -/
def Obligations.BuildsIgnoreThePadding : Prop :=
  ∀ s s' t t' : State, s'.bufBytes = s.bufBytes → s'.arg0 = s.arg0 →
    (∀ i, i < s.arg0.toNat → s'.bitAt .buf i = s.bitAt .buf i) →
    (exec .dbuild s = .next t → exec .dbuild s' = .next t' →
      t'.status = t.status ∧ (t.status = .ok → t'.dv = t.dv)) ∧
    (exec .sbuild s = .next t → exec .sbuild s' = .next t' →
      t'.status = t.status ∧ (t.status = .ok → t'.sv = t.sv))

/-- R96, R97: `DRANK1` fails with `NotBuilt`, then with `OutOfRange`, and otherwise answers the number of 1 bits before
`pos`; it changes nothing but `RES` and `STATUS`. -/
def Obligations.Drank1CountsTheOnesBeforePos : Prop :=
  ∀ s : State,
    (s.dvalid = false → ∃ r n, exec .drank1 s =
      .next { s with res := r, status := .failed .notBuilt, draws := n }) ∧
    (s.dvalid = true → s.dv.length < s.arg0.toNat → ∃ r n, exec .drank1 s =
      .next { s with res := r, status := .failed .outOfRange, draws := n }) ∧
    (s.dvalid = true → DenseOk s s.dv → s.arg0.toNat ≤ s.dv.length → exec .drank1 s =
      .next { s with res := BitVec.ofNat 64 (s.ones s.dv.src 0 s.arg0.toNat), status := .ok })

/-- R98: the properties of `Rank1`: its two ends, its steps of 0 or 1, and its sums across a large-block boundary. -/
def Obligations.DenseRankIsMonotoneAndAdditive : Prop :=
  ∀ s : State, s.bufBytes ≤ 2 ^ 60 → s.dvalid = true → DenseOk s s.dv →
    Answers .drank1 (s.ask 0) 0 ∧
    Answers .drank1 (s.ask s.dv.length) s.dv.rank1Max ∧
    FailsWith .drank1 (s.ask (s.dv.length + 1)) .outOfRange ∧
    (∀ pos, pos < s.dv.length → ∃ r r', r ≤ s.dv.length ∧ r' ≤ s.dv.length ∧
      Answers .drank1 (s.ask pos) r ∧ Answers .drank1 (s.ask (pos + 1)) r' ∧
      r' = r + (s.bitAt s.dv.src.memory pos).toNat) ∧
    ∀ pos, 65536 ≤ pos → pos ≤ s.dv.length → ∃ r0 r, r0 ≤ s.dv.length ∧ r ≤ s.dv.length ∧
      Answers .drank1 (s.ask (65536 * (pos / 65536))) r0 ∧ Answers .drank1 (s.ask pos) r ∧
      r = r0 + s.ones s.dv.src (65536 * (pos / 65536)) pos

/-! ## Dense select (42_dense_select.md) -/

/-- R110: `DSELECT1` fails with `NotBuilt`, then with `RankOutOfRange`, and otherwise answers the position of the `rank`-th
1 bit; `RankExceedsVector` never. -/
def Obligations.Dselect1FindsTheRankthOne : Prop :=
  ∀ s : State,
    (s.dvalid = false → ∃ r n, exec .dselect1 s =
      .next { s with res := r, status := .failed .notBuilt, draws := n }) ∧
    (s.dvalid = true → s.dv.rank1Max ≤ s.arg0.toNat → ∃ r n, exec .dselect1 s =
      .next { s with res := r, status := .failed .rankOutOfRange, draws := n }) ∧
    (s.dvalid = true → DenseOk s s.dv → s.arg0.toNat < s.dv.rank1Max → ∃ p, exec .dselect1 s =
        .next { s with res := BitVec.ofNat 64 p, status := .ok } ∧
      p < s.dv.length ∧ s.bitAt s.dv.src.memory p = true ∧ s.ones s.dv.src 0 p = s.arg0.toNat)

/-- R118: `DSELECT0` fails with `NotBuilt`, then with `RankOutOfRange`, and otherwise answers the position of the `rank`-th
0 bit among the valid ones; `RankExceedsVector` never. -/
def Obligations.Dselect0FindsTheRankthZero : Prop :=
  ∀ s : State,
    (s.dvalid = false → ∃ r n, exec .dselect0 s =
      .next { s with res := r, status := .failed .notBuilt, draws := n }) ∧
    (s.dvalid = true → s.dv.length - s.dv.rank1Max ≤ s.arg0.toNat → ∃ r n, exec .dselect0 s =
      .next { s with res := r, status := .failed .rankOutOfRange, draws := n }) ∧
    (s.dvalid = true → DenseOk s s.dv → s.arg0.toNat < s.dv.length - s.dv.rank1Max → ∃ p, exec .dselect0 s =
        .next { s with res := BitVec.ofNat 64 p, status := .ok } ∧
      p < s.dv.length ∧ s.bitAt s.dv.src.memory p = false ∧ s.zeros s.dv.src 0 p = s.arg0.toNat)

/-- R116: the reference binary search yields the `k` of R113 and, on the slice, the `j` of R114 that the commands use. -/
def Obligations.BinarySearchFindsTheSameBlocks : Prop :=
  ∀ (s : State) (c : DenseContext) (rank : Nat) (v : Bool), DenseOk s c → rank < total c v →
    ∃ k j, selectLarge c v rank = .ok k ∧ selectSmall c v rank k = .ok j ∧
      lowerBound (fun m => s.count c.src v 0 (65536 * m)) 0 c.nlarge (rank + 1) = k + 1 ∧
      lowerBound (fun m => s.count c.src v 0 (128 * m)) (512 * k) (min (512 * k + 512) c.nsmall) (rank + 1) = j + 1

/-- R117: `RankExceedsVector` cannot be raised by `DenseSelect` on a context built by `DenseBuild`. -/
def Obligations.RankExceedsVectorNeverRaisedOnABuiltContext : Prop :=
  ∀ (s : State) (src : Source) (length : Nat) (c : DenseContext) (rank : Nat) (v : Bool),
    denseBuild src length s = .ok c → denseSelect c rank v s ≠ .error (.raised .rankExceedsVector)

/-- R119: select undoes rank, for ones and for zeros; every rank from `rank1Max` on fails; on the empty vector every select
fails. -/
def Obligations.DenseSelectUndoesRank : Prop :=
  ∀ s : State, s.bufBytes ≤ 2 ^ 60 → s.dvalid = true → DenseOk s s.dv →
    (∀ p, p < s.dv.length → ∃ r, r ≤ p ∧ Answers .drank1 (s.ask p) r ∧
      (s.bitAt s.dv.src.memory p = true → Answers .dselect1 (s.ask r) p) ∧
      (s.bitAt s.dv.src.memory p = false → Answers .dselect0 (s.ask (p - r)) p)) ∧
    (∀ k, s.dv.rank1Max ≤ k → k < 2 ^ 64 → FailsWith .dselect1 (s.ask k) .rankOutOfRange) ∧
    (s.dv.length = 0 → ∀ k, FailsWith .dselect1 (s.ask k) .rankOutOfRange ∧
      FailsWith .dselect0 (s.ask k) .rankOutOfRange)

/-! ## Bit fields (43_bit_field.md) -/

/-- R132, R133: on a `LOW` whose bits of code `r` are 0, `LowPut(r, value)` writes a code that `LowGet(r)` reads back; every
other code, every bit of `LOW` outside code `r`, and all else of the state stay. -/
def Obligations.LowGetReadsBackLowPut : Prop :=
  ∀ (s : State) (l r value : Nat), value < 2 ^ l → r * l + l ≤ s.maxLen →
    (∀ t, t < l → s.bitAt .low (r * l + t) = false) →
    ∃ u, lowPut l r value s = .ok u ∧ lowGet l r u = .ok value ∧ u = { s with low := u.low } ∧
      (∀ r', r' ≠ r → lowGet l r' u = lowGet l r' s) ∧
      ∀ o, (o < r * l ∨ r * l + l ≤ o) → u.bitAt .low o = s.bitAt .low o

/-- R134: `HighEmit` leaves the gap's bits as they are, sets the element's own 1 bit, changes nothing else, and returns the
next write offset. -/
def Obligations.HighEmitSetsOneBit : Prop :=
  ∀ (s : State) (offset gap : Nat), offset + gap < s.maxLen →
    ∃ t, highEmit offset gap s = .ok (t, offset + gap + 1) ∧ t = { s with hbuf := t.hbuf } ∧
      ∀ o, t.bitAt .hbuf o = (s.bitAt .hbuf o || decide (o = offset + gap))

/-- R135: the two clears set the bytes that hold `nbits` bits to 0 and change nothing else. -/
def Obligations.ClearsZeroTheBytesOfTheirBits : Prop :=
  ∀ (s : State) (nbits : Nat), nbits ≤ s.maxLen →
    (∃ t, lowClear nbits s = .ok t ∧ t = { s with low := t.low } ∧
      ∀ a, t.peek .low a = if a < (nbits + 7) / 8 then 0 else s.peek .low a) ∧
    ∃ t, highClear nbits s = .ok t ∧ t = { s with hbuf := t.hbuf } ∧
      ∀ a, t.peek .hbuf a = if a < (nbits + 7) / 8 then 0 else s.peek .hbuf a

/-- R131: after a general-form build the bits of `LOW`'s last byte beyond the codes are 0, and so are those of the high
bitmap's last byte (R135). -/
def Obligations.BitsBeyondTheCodesAreZeroAfterABuild : Prop :=
  ∀ s t : State, exec .sbuild s = .next t → t.status = .ok → t.sv.degenerate = false →
    (∀ o, t.sv.weight * t.sv.lowLength ≤ o → o < 8 * ((t.sv.weight * t.sv.lowLength + 7) / 8) →
      t.bitAt .low o = false) ∧
    ∀ o, t.sv.inner.length ≤ o → o < 8 * ((t.sv.inner.length + 7) / 8) → t.bitAt .hbuf o = false

/-! ## The sparse structure (44_sparse.md) -/

/-- R140: `SBUILD` fails with `Capacity`, then with `ZeroWeight`, and otherwise builds an `SV` that meets R29 to R33 and sets
`SVALID`, and `SDEGEN` exactly in the degenerate form. It writes the bytes of `LOW` and `HBUF` that hold its codes and its
bitmap, in the general form only, and changes nothing else. That the discarded `SV` keeps its fields when the build fails is the
model's choice (log 18). -/
def Obligations.SbuildEncodesTheSetPositionsOrRefuses : Prop :=
  ∀ s : State,
    (s.maxLen < s.arg0.toNat → ∃ r n, exec .sbuild s =
      .next { s with flags := s.flags &&& 1#3, res := r, status := .failed .capacity, draws := n }) ∧
    (s.arg0.toNat ≤ s.maxLen → s.ones .buf 0 s.arg0.toNat = 0 → ∃ r n, exec .sbuild s =
      .next { s with flags := s.flags &&& 1#3, res := r, status := .failed .zeroWeight, draws := n }) ∧
    (s.arg0.toNat ≤ s.maxLen → 0 < s.ones .buf 0 s.arg0.toNat → ∃ t, exec .sbuild s = .next t ∧
      t = { s with flags := t.flags, sv := t.sv, low := t.low, hbuf := t.hbuf, res := 0, status := .ok } ∧
      t.dvalid = s.dvalid ∧ t.svalid = true ∧ t.sdegen = t.sv.degenerate ∧
      t.sv.length = s.arg0.toNat ∧ SparseOk t ∧
      (t.sv.degenerate = true → t.low = s.low ∧ t.hbuf = s.hbuf) ∧
      (∀ a, (t.sv.weight * t.sv.lowLength + 7) / 8 ≤ a → t.peek .low a = s.peek .low a) ∧
      ∀ a, (t.sv.inner.length + 7) / 8 ≤ a → t.peek .hbuf a = s.peek .hbuf a)

/-- R141: a bit sequence with no set valid bit fails with `ZeroWeight` and builds nothing, length 0 included; so every valid
`SV` has a positive weight and length. That the discarded `SV` keeps its fields is the model's choice (log 18, R175). -/
def Obligations.ZeroWeightBuildsNothing : Prop :=
  (∀ s : State, s.arg0.toNat ≤ s.maxLen → (∀ i, i < s.arg0.toNat → s.bitAt .buf i = false) →
    ∃ r n, exec .sbuild s =
      .next { s with flags := s.flags &&& 1#3, res := r, status := .failed .zeroWeight, draws := n }) ∧
  ∀ s t : State, exec .sbuild s = .next t → t.svalid = true → 1 ≤ t.sv.weight ∧ 1 ≤ t.sv.length

/-- R146: the postcondition of a general-form `SBUILD`. -/
def Obligations.SbuildPostcondition : Prop :=
  ∀ s t : State, exec .sbuild s = .next t → t.status = .ok → t.sv.degenerate = false →
    let w := t.sv.weight
    let l := t.sv.lowLength
    let p := t.setPosition .buf t.sv.length
    (∀ i, i < w → lowGet l i t = .ok (p i &&& t.sv.lowMask)) ∧
    t.sv.inner.length = w + (p (w - 1) >>> l) ∧
    (∀ i, i < w → t.bitAt .hbuf ((p i >>> l) + i) = true) ∧
    (∀ o, o < t.sv.inner.length → (∀ i, i < w → o ≠ (p i >>> l) + i) → t.bitAt .hbuf o = false) ∧
    t.ones .hbuf 0 t.sv.inner.length = w ∧
    t.zeros .hbuf 0 t.sv.inner.length = p (w - 1) >>> l ∧
    t.sv.inner.rank1Max = w ∧
    ∀ i, i < w → denseSelect t.sv.inner i true t = .ok ((p i >>> l) + i)

/-- R32: the degenerate form is exactly the one with more than half the bits set. -/
def Obligations.DegenerateExactlyAboveHalfDensity : Prop :=
  ∀ s : State, SparseOk s → (s.sv.degenerate = true ↔ s.sv.length < 2 * s.sv.weight)

/-- R35: in the general form the high bitmap has at most `length` bits and `low[]` at most `length div 2`. -/
def Obligations.SparseEncodingFitsItsMemories : Prop :=
  ∀ s : State, SparseOk s → s.sv.degenerate = false →
    s.sv.inner.length ≤ s.sv.length ∧ s.sv.weight * s.sv.lowLength ≤ s.sv.length / 2

/-- R150, R151: `SRANK1` fails with `NotBuilt`, then with `OutOfRange`, and otherwise answers the number of set positions
before `pos`; it changes nothing but `RES` and `STATUS`. -/
def Obligations.Srank1CountsTheSetPositionsBeforePos : Prop :=
  ∀ s : State,
    (s.svalid = false → ∃ r n, exec .srank1 s =
      .next { s with res := r, status := .failed .notBuilt, draws := n }) ∧
    (s.svalid = true → SparseOk s → s.sv.length < s.arg0.toNat → ∃ r n, exec .srank1 s =
      .next { s with res := r, status := .failed .outOfRange, draws := n }) ∧
    (s.svalid = true → SparseOk s → s.arg0.toNat ≤ s.sv.length → exec .srank1 s =
      .next { s with res := BitVec.ofNat 64 (s.ones .buf 0 s.arg0.toNat), status := .ok })

/-- R158, R159: `SSELECT1` fails with `NotBuilt`, then with `RankOutOfRange`, and otherwise answers the `rank`-th set
position; it changes nothing but `RES` and `STATUS`. -/
def Obligations.Sselect1FindsTheRankthSetPosition : Prop :=
  ∀ s : State,
    (s.svalid = false → ∃ r n, exec .sselect1 s =
      .next { s with res := r, status := .failed .notBuilt, draws := n }) ∧
    (s.svalid = true → SparseOk s → s.sv.weight ≤ s.arg0.toNat → ∃ r n, exec .sselect1 s =
      .next { s with res := r, status := .failed .rankOutOfRange, draws := n }) ∧
    (s.svalid = true → SparseOk s → s.arg0.toNat < s.sv.weight → exec .sselect1 s =
      .next { s with res := BitVec.ofNat 64 (s.setPosition .buf s.sv.length s.arg0.toNat), status := .ok })

/-- R161: the sparse and the dense structure over the same bytes and length agree: right after the two builds, and in every
state of the invariant in which both are valid (no byte was stored since, or the flags would be clear). -/
def Obligations.SparseAndDenseAgree : Prop :=
  (∀ s t u : State, exec .dbuild s = .next t → t.status = .ok → exec .sbuild t = .next u → u.status = .ok →
    SparseAgreesWithDense u) ∧
  ∀ u : State, Inv u → u.dvalid = true → u.svalid = true → u.dv.length = u.sv.length → SparseAgreesWithDense u

/-! ## Failures, frames and whole-machine rules (60_exceptions.md, 70_reset_and_hazards.md) -/

/-- R170: every failure condition is reported by the commands of its row and exactly when the row says. -/
def Obligations.EveryFailureHasItsCause : Prop :=
  (∀ (s t : State) (i : Instr), Inv s → exec i s = .next t →
    (t.status = .failed .outOfRange ↔
      (i = .drank1 ∧ s.dvalid = true ∧ s.dv.length < s.arg0.toNat) ∨
      (i = .srank1 ∧ s.svalid = true ∧ s.sv.length < s.arg0.toNat)) ∧
    (t.status = .failed .rankOutOfRange ↔
      (i = .dselect1 ∧ s.dvalid = true ∧ s.dv.rank1Max ≤ s.arg0.toNat) ∨
      (i = .dselect0 ∧ s.dvalid = true ∧ s.dv.length - s.dv.rank1Max ≤ s.arg0.toNat) ∨
      (i = .sselect1 ∧ s.svalid = true ∧ s.sv.weight ≤ s.arg0.toNat)) ∧
    t.status ≠ .failed .rankExceedsVector ∧
    (t.status = .failed .zeroWeight ↔
      i = .sbuild ∧ s.arg0.toNat ≤ s.maxLen ∧ s.ones .buf 0 s.arg0.toNat = 0) ∧
    (t.status = .failed .notBuilt ↔
      (i ∈ [.drank1, .dselect1, .dselect0] ∧ s.dvalid = false) ∨ (i ∈ [.srank1, .sselect1] ∧ s.svalid = false)) ∧
    t.status ≠ .failed .illegalCommand ∧
    (t.status = .failed .capacity ↔ i ∈ [.dbuild, .sbuild] ∧ s.maxLen < s.arg0.toNat) ∧
    (t.status = .failed .illegalOperand ↔
      (i = .popcnt8 ∧ 255 < s.arg0.toNat) ∨ (i ∈ [.log2floor, .log2ceil] ∧ s.arg0.toNat = 0))) ∧
  ∀ (s t : State) (w : BitVec 32) (rest : List HostInput), Inv s → s.inputs = .write 0 w.toNat :: rest →
    step s = .next t → (t.status = .failed .illegalCommand ↔ ∀ i, decode w ≠ .ok i)

/-- R175: a failing command changes `STATUS` and `RES` only, but that a failing build leaves its valid flag (and `SDEGEN`)
clear. That the fields of the structure it discards stay as they were is the model's choice (log 18). -/
def Obligations.FailureHasNoOtherEffect : Prop :=
  ∀ (s t : State) (i : Instr) (e : Failure), exec i s = .next t → t.status = .failed e →
    t = { s with
      res := t.res, status := .failed e, draws := t.draws,
      flags := match i with
        | .dbuild => s.flags &&& 6#3
        | .sbuild => s.flags &&& 1#3
        | _ => s.flags }

/-- R177: a failed command fails again in the same way. -/
def Obligations.FailedCommandFailsAgain : Prop :=
  ∀ (s t : State) (i : Instr) (e : Failure), exec i s = .next t → t.status = .failed e →
    ∃ u, exec i t = .next u ∧ u.status = .failed e

/-- R68: no command changes `ARG0`, `BUFPTR`, `BUF` or `CMD`, nor the capacity or the host's side. -/
def Obligations.CommandsKeepTheHostsRegistersAndBuffer : Prop :=
  ∀ (s t : State) (i : Instr), exec i s = .next t →
    t.arg0 = s.arg0 ∧ t.bufptr = s.bufptr ∧ t.buf = s.buf ∧ t.cmd = s.cmd ∧ t.bufBytes = s.bufBytes ∧
      t.powerUps = s.powerUps ∧ t.inputs = s.inputs ∧ t.outputs = s.outputs

/-- R37, 20_memory.md R46: a command that builds nothing writes no memory and no field of a structure: only `RES` and
`STATUS`, and the model's own count of failures (log 4). -/
def Obligations.QueriesWriteOnlyResAndStatus : Prop :=
  ∀ (s t : State) (i : Instr), i ∈ [.popcnt8, .log2floor, .log2ceil, .drank1, .dselect1, .dselect0, .srank1,
      .sselect1] →
    exec i s = .next t → t = { s with res := t.res, status := t.status, draws := t.draws }

/-- R53: a query's result does not depend on the queries made before it. -/
def Obligations.QueryOrderDoesNotMatter : Prop :=
  ∀ (s t a : State) (i j : Instr) (v : Nat), readsOnly i = true → readsOnly j = true → exec i s = .next t →
    exec j (s.ask v) = .next a →
    ∃ b, exec j (t.ask v) = .next b ∧ b.status = a.status ∧ (a.status = .ok → b.res = a.res)

/-- R195: a build discards the previous structure of its kind even when it fails, and leaves the other structure
untouched. -/
def Obligations.BuildReplacesItsOwnStructureOnly : Prop :=
  ∀ s t : State,
    (exec .dbuild s = .next t →
      (t.status ≠ .ok → t.dvalid = false) ∧ (t.status = .ok → t.dvalid = true ∧ t.dv.length = s.arg0.toNat) ∧
      t.sv = s.sv ∧ t.svalid = s.svalid ∧ t.sdegen = s.sdegen ∧ t.low = s.low ∧ t.hbuf = s.hbuf ∧
      (SparseInv s → SparseInv t)) ∧
    (exec .sbuild s = .next t →
      (t.status ≠ .ok → t.svalid = false) ∧ (t.status = .ok → t.svalid = true ∧ t.sv.length = s.arg0.toNat) ∧
      t.dv = s.dv ∧ t.dvalid = s.dvalid ∧ (DenseInv s → DenseInv t))

/-- R38: the six registers are 0 after reset, no structure is valid, and the invariant holds. The fields R38 leaves unspecified
have the model's values (log 6). -/
def Obligations.ResetMeetsTheInvariant : Prop :=
  State.reset.cmd = 0 ∧ State.reset.arg0 = 0 ∧ State.reset.res = 0 ∧ State.reset.status = .ok ∧ State.reset.bufptr = 0 ∧
  State.reset.flags = 0 ∧ Inv State.reset

/-- R6, R18, R40: every step keeps the capacity's bound, the memories' canonical form and range, and `SDEGEN = 0` whenever
`SVALID = 0`. -/
def Obligations.StepKeepsMemoriesCanonical : Prop :=
  ∀ s t : State, CoreInv s → step s = .next t → CoreInv t

/-- R28, R91, R17: every step keeps this: a valid `DV` indexes exactly the bytes `BUF` holds. -/
def Obligations.StepKeepsTheDenseIndexTrue : Prop :=
  ∀ s t : State, DenseInv s → step s = .next t → DenseInv t

/-- R29 to R33, R146, R17: every step keeps this: a valid `SV` encodes exactly the set positions of `BUF`. -/
def Obligations.StepKeepsTheSparseStructureTrue : Prop :=
  ∀ s t : State, SparseInv s → step s = .next t → SparseInv t

/-- R10, R97, R113, R114, R151: from a state of the invariant no step faults: every byte and index entry a command touches
exists, and every search has an answer. -/
def Obligations.NoStepFaultsFromTheInvariant : Prop :=
  ∀ (s : State) (f : Fault), Inv s → step s ≠ .fault f

/-- R10, R11, R21: a step is refused exactly when the next input is no transaction of the unit: its register number is above
15, or it writes a value wider than its register, the sixteen widths written out in the order of the numbers. No command is
refused. The refusal itself, and the width of the reserved registers, are the model's (log 11, log 10). -/
def Obligations.OnlyNonTransactionsAreRefused : Prop :=
  ∀ s : State,
    ((∃ x, step s = .refused x) ↔ ∃ t rest, s.inputs = t :: rest ∧ t.wellFormed = false) ∧
    ((∃ x, step s = .refused x) ↔
      (∃ n rest, s.inputs = .read n :: rest ∧ 15 < n) ∨
      ∃ n v rest, s.inputs = .write n v :: rest ∧ (15 < n ∨
        ∃ width, [32, 64, 64, 4, 64, 8, 3, 64, 64, 64, 64, 64, 64, 64, 64, 64][n]? = some width ∧ 2 ^ width ≤ v))

/-- The capacity is a parameter: no step changes it; and with no input pending a step changes nothing. Both are the model's
form of R6 and R10 (log 3, log 1). -/
def Obligations.CapacityIsFixedAndIdleStepsDoNothing : Prop :=
  (∀ s t : State, step s = .next t → t.bufBytes = s.bufBytes) ∧ ∀ s : State, s.inputs = [] → step s = .next s
end

