-- ==== Sys2Proof/Laws/State.lean ====
section
/-! SUPPORT. One lemma per field per update of the state, so that no later proof unfolds a record update. -/

namespace Sys2Proof.Machine

/-! ## `setDvalid` -/

@[simp] theorem setDvalid_cmd (b : Bool) (s : State) : (s.setDvalid b).cmd = s.cmd := rfl
@[simp] theorem setDvalid_arg0 (b : Bool) (s : State) : (s.setDvalid b).arg0 = s.arg0 := rfl
@[simp] theorem setDvalid_res (b : Bool) (s : State) : (s.setDvalid b).res = s.res := rfl
@[simp] theorem setDvalid_status (b : Bool) (s : State) : (s.setDvalid b).status = s.status := rfl
@[simp] theorem setDvalid_bufptr (b : Bool) (s : State) : (s.setDvalid b).bufptr = s.bufptr := rfl
@[simp] theorem setDvalid_flags (b : Bool) (s : State) : (s.setDvalid b).flags = setFlag 0 b s.flags := rfl
@[simp] theorem setDvalid_buf (b : Bool) (s : State) : (s.setDvalid b).buf = s.buf := rfl
@[simp] theorem setDvalid_hbuf (b : Bool) (s : State) : (s.setDvalid b).hbuf = s.hbuf := rfl
@[simp] theorem setDvalid_low (b : Bool) (s : State) : (s.setDvalid b).low = s.low := rfl
@[simp] theorem setDvalid_dv (b : Bool) (s : State) : (s.setDvalid b).dv = s.dv := rfl
@[simp] theorem setDvalid_sv (b : Bool) (s : State) : (s.setDvalid b).sv = s.sv := rfl
@[simp] theorem setDvalid_bufBytes (b : Bool) (s : State) : (s.setDvalid b).bufBytes = s.bufBytes := rfl
@[simp] theorem setDvalid_powerUps (b : Bool) (s : State) : (s.setDvalid b).powerUps = s.powerUps := rfl
@[simp] theorem setDvalid_draws (b : Bool) (s : State) : (s.setDvalid b).draws = s.draws := rfl
@[simp] theorem setDvalid_inputs (b : Bool) (s : State) : (s.setDvalid b).inputs = s.inputs := rfl
@[simp] theorem setDvalid_outputs (b : Bool) (s : State) : (s.setDvalid b).outputs = s.outputs := rfl

/-! ## `setSvalid` -/

@[simp] theorem setSvalid_cmd (b : Bool) (s : State) : (s.setSvalid b).cmd = s.cmd := rfl
@[simp] theorem setSvalid_arg0 (b : Bool) (s : State) : (s.setSvalid b).arg0 = s.arg0 := rfl
@[simp] theorem setSvalid_res (b : Bool) (s : State) : (s.setSvalid b).res = s.res := rfl
@[simp] theorem setSvalid_status (b : Bool) (s : State) : (s.setSvalid b).status = s.status := rfl
@[simp] theorem setSvalid_bufptr (b : Bool) (s : State) : (s.setSvalid b).bufptr = s.bufptr := rfl
@[simp] theorem setSvalid_flags (b : Bool) (s : State) : (s.setSvalid b).flags = setFlag 1 b s.flags := rfl
@[simp] theorem setSvalid_buf (b : Bool) (s : State) : (s.setSvalid b).buf = s.buf := rfl
@[simp] theorem setSvalid_hbuf (b : Bool) (s : State) : (s.setSvalid b).hbuf = s.hbuf := rfl
@[simp] theorem setSvalid_low (b : Bool) (s : State) : (s.setSvalid b).low = s.low := rfl
@[simp] theorem setSvalid_dv (b : Bool) (s : State) : (s.setSvalid b).dv = s.dv := rfl
@[simp] theorem setSvalid_sv (b : Bool) (s : State) : (s.setSvalid b).sv = s.sv := rfl
@[simp] theorem setSvalid_bufBytes (b : Bool) (s : State) : (s.setSvalid b).bufBytes = s.bufBytes := rfl
@[simp] theorem setSvalid_powerUps (b : Bool) (s : State) : (s.setSvalid b).powerUps = s.powerUps := rfl
@[simp] theorem setSvalid_draws (b : Bool) (s : State) : (s.setSvalid b).draws = s.draws := rfl
@[simp] theorem setSvalid_inputs (b : Bool) (s : State) : (s.setSvalid b).inputs = s.inputs := rfl
@[simp] theorem setSvalid_outputs (b : Bool) (s : State) : (s.setSvalid b).outputs = s.outputs := rfl

/-! ## `setSdegen` -/

@[simp] theorem setSdegen_cmd (b : Bool) (s : State) : (s.setSdegen b).cmd = s.cmd := rfl
@[simp] theorem setSdegen_arg0 (b : Bool) (s : State) : (s.setSdegen b).arg0 = s.arg0 := rfl
@[simp] theorem setSdegen_res (b : Bool) (s : State) : (s.setSdegen b).res = s.res := rfl
@[simp] theorem setSdegen_status (b : Bool) (s : State) : (s.setSdegen b).status = s.status := rfl
@[simp] theorem setSdegen_bufptr (b : Bool) (s : State) : (s.setSdegen b).bufptr = s.bufptr := rfl
@[simp] theorem setSdegen_flags (b : Bool) (s : State) : (s.setSdegen b).flags = setFlag 2 b s.flags := rfl
@[simp] theorem setSdegen_buf (b : Bool) (s : State) : (s.setSdegen b).buf = s.buf := rfl
@[simp] theorem setSdegen_hbuf (b : Bool) (s : State) : (s.setSdegen b).hbuf = s.hbuf := rfl
@[simp] theorem setSdegen_low (b : Bool) (s : State) : (s.setSdegen b).low = s.low := rfl
@[simp] theorem setSdegen_dv (b : Bool) (s : State) : (s.setSdegen b).dv = s.dv := rfl
@[simp] theorem setSdegen_sv (b : Bool) (s : State) : (s.setSdegen b).sv = s.sv := rfl
@[simp] theorem setSdegen_bufBytes (b : Bool) (s : State) : (s.setSdegen b).bufBytes = s.bufBytes := rfl
@[simp] theorem setSdegen_powerUps (b : Bool) (s : State) : (s.setSdegen b).powerUps = s.powerUps := rfl
@[simp] theorem setSdegen_draws (b : Bool) (s : State) : (s.setSdegen b).draws = s.draws := rfl
@[simp] theorem setSdegen_inputs (b : Bool) (s : State) : (s.setSdegen b).inputs = s.inputs := rfl
@[simp] theorem setSdegen_outputs (b : Bool) (s : State) : (s.setSdegen b).outputs = s.outputs := rfl

/-! ## `finish` -/

@[simp] theorem finish_cmd (v : Nat) (s : State) : (finish v s).cmd = s.cmd := rfl
@[simp] theorem finish_arg0 (v : Nat) (s : State) : (finish v s).arg0 = s.arg0 := rfl
@[simp] theorem finish_res (v : Nat) (s : State) : (finish v s).res = BitVec.ofNat wordBits v := rfl
@[simp] theorem finish_status (v : Nat) (s : State) : (finish v s).status = .ok := rfl
@[simp] theorem finish_bufptr (v : Nat) (s : State) : (finish v s).bufptr = s.bufptr := rfl
@[simp] theorem finish_flags (v : Nat) (s : State) : (finish v s).flags = s.flags := rfl
@[simp] theorem finish_buf (v : Nat) (s : State) : (finish v s).buf = s.buf := rfl
@[simp] theorem finish_hbuf (v : Nat) (s : State) : (finish v s).hbuf = s.hbuf := rfl
@[simp] theorem finish_low (v : Nat) (s : State) : (finish v s).low = s.low := rfl
@[simp] theorem finish_dv (v : Nat) (s : State) : (finish v s).dv = s.dv := rfl
@[simp] theorem finish_sv (v : Nat) (s : State) : (finish v s).sv = s.sv := rfl
@[simp] theorem finish_bufBytes (v : Nat) (s : State) : (finish v s).bufBytes = s.bufBytes := rfl
@[simp] theorem finish_powerUps (v : Nat) (s : State) : (finish v s).powerUps = s.powerUps := rfl
@[simp] theorem finish_draws (v : Nat) (s : State) : (finish v s).draws = s.draws := rfl
@[simp] theorem finish_inputs (v : Nat) (s : State) : (finish v s).inputs = s.inputs := rfl
@[simp] theorem finish_outputs (v : Nat) (s : State) : (finish v s).outputs = s.outputs := rfl

/-! ## `raise` -/

@[simp] theorem raise_cmd (e : Failure) (s : State) : (raise e s).cmd = s.cmd := rfl
@[simp] theorem raise_arg0 (e : Failure) (s : State) : (raise e s).arg0 = s.arg0 := rfl
@[simp] theorem raise_res (e : Failure) (s : State) : (raise e s).res = Config.freeResult s.draws := rfl
@[simp] theorem raise_status (e : Failure) (s : State) : (raise e s).status = .failed e := rfl
@[simp] theorem raise_bufptr (e : Failure) (s : State) : (raise e s).bufptr = s.bufptr := rfl
@[simp] theorem raise_flags (e : Failure) (s : State) : (raise e s).flags = s.flags := rfl
@[simp] theorem raise_buf (e : Failure) (s : State) : (raise e s).buf = s.buf := rfl
@[simp] theorem raise_hbuf (e : Failure) (s : State) : (raise e s).hbuf = s.hbuf := rfl
@[simp] theorem raise_low (e : Failure) (s : State) : (raise e s).low = s.low := rfl
@[simp] theorem raise_dv (e : Failure) (s : State) : (raise e s).dv = s.dv := rfl
@[simp] theorem raise_sv (e : Failure) (s : State) : (raise e s).sv = s.sv := rfl
@[simp] theorem raise_bufBytes (e : Failure) (s : State) : (raise e s).bufBytes = s.bufBytes := rfl
@[simp] theorem raise_powerUps (e : Failure) (s : State) : (raise e s).powerUps = s.powerUps := rfl
@[simp] theorem raise_draws (e : Failure) (s : State) : (raise e s).draws = s.draws + 1 := rfl
@[simp] theorem raise_inputs (e : Failure) (s : State) : (raise e s).inputs = s.inputs := rfl
@[simp] theorem raise_outputs (e : Failure) (s : State) : (raise e s).outputs = s.outputs := rfl

/-! ## `ask` -/

@[simp] theorem ask_cmd (s : State) (v : Nat) : (s.ask v).cmd = s.cmd := rfl
@[simp] theorem ask_arg0 (s : State) (v : Nat) : (s.ask v).arg0 = BitVec.ofNat wordBits v := rfl
@[simp] theorem ask_res (s : State) (v : Nat) : (s.ask v).res = s.res := rfl
@[simp] theorem ask_status (s : State) (v : Nat) : (s.ask v).status = s.status := rfl
@[simp] theorem ask_bufptr (s : State) (v : Nat) : (s.ask v).bufptr = s.bufptr := rfl
@[simp] theorem ask_flags (s : State) (v : Nat) : (s.ask v).flags = s.flags := rfl
@[simp] theorem ask_buf (s : State) (v : Nat) : (s.ask v).buf = s.buf := rfl
@[simp] theorem ask_hbuf (s : State) (v : Nat) : (s.ask v).hbuf = s.hbuf := rfl
@[simp] theorem ask_low (s : State) (v : Nat) : (s.ask v).low = s.low := rfl
@[simp] theorem ask_dv (s : State) (v : Nat) : (s.ask v).dv = s.dv := rfl
@[simp] theorem ask_sv (s : State) (v : Nat) : (s.ask v).sv = s.sv := rfl
@[simp] theorem ask_bufBytes (s : State) (v : Nat) : (s.ask v).bufBytes = s.bufBytes := rfl
@[simp] theorem ask_powerUps (s : State) (v : Nat) : (s.ask v).powerUps = s.powerUps := rfl
@[simp] theorem ask_draws (s : State) (v : Nat) : (s.ask v).draws = s.draws := rfl
@[simp] theorem ask_inputs (s : State) (v : Nat) : (s.ask v).inputs = s.inputs := rfl
@[simp] theorem ask_outputs (s : State) (v : Nat) : (s.ask v).outputs = s.outputs := rfl

/-! ## `setMemory` -/

@[simp] theorem setMemory_cmd (s : State) (m : ByteMemory) (x : Memory) : (s.setMemory m x).cmd = s.cmd :=
  by cases m <;> rfl
@[simp] theorem setMemory_arg0 (s : State) (m : ByteMemory) (x : Memory) : (s.setMemory m x).arg0 = s.arg0 :=
  by cases m <;> rfl
@[simp] theorem setMemory_res (s : State) (m : ByteMemory) (x : Memory) : (s.setMemory m x).res = s.res :=
  by cases m <;> rfl
@[simp] theorem setMemory_status (s : State) (m : ByteMemory) (x : Memory) : (s.setMemory m x).status = s.status :=
  by cases m <;> rfl
@[simp] theorem setMemory_bufptr (s : State) (m : ByteMemory) (x : Memory) : (s.setMemory m x).bufptr = s.bufptr :=
  by cases m <;> rfl
@[simp] theorem setMemory_flags (s : State) (m : ByteMemory) (x : Memory) : (s.setMemory m x).flags = s.flags :=
  by cases m <;> rfl
@[simp] theorem setMemory_dv (s : State) (m : ByteMemory) (x : Memory) : (s.setMemory m x).dv = s.dv :=
  by cases m <;> rfl
@[simp] theorem setMemory_sv (s : State) (m : ByteMemory) (x : Memory) : (s.setMemory m x).sv = s.sv :=
  by cases m <;> rfl
@[simp] theorem setMemory_bufBytes (s : State) (m : ByteMemory) (x : Memory) : (s.setMemory m x).bufBytes = s.bufBytes :=
  by cases m <;> rfl
@[simp] theorem setMemory_powerUps (s : State) (m : ByteMemory) (x : Memory) : (s.setMemory m x).powerUps = s.powerUps :=
  by cases m <;> rfl
@[simp] theorem setMemory_draws (s : State) (m : ByteMemory) (x : Memory) : (s.setMemory m x).draws = s.draws :=
  by cases m <;> rfl
@[simp] theorem setMemory_inputs (s : State) (m : ByteMemory) (x : Memory) : (s.setMemory m x).inputs = s.inputs :=
  by cases m <;> rfl
@[simp] theorem setMemory_outputs (s : State) (m : ByteMemory) (x : Memory) : (s.setMemory m x).outputs = s.outputs :=
  by cases m <;> rfl

@[simp] theorem setMemory_memory (s : State) (m k : ByteMemory) (x : Memory) :
    (s.setMemory m x).memory k = if k = m then x else s.memory k := by
  cases m <;> cases k <;> rfl

/-! ## `resetEvent` -/

@[simp] theorem resetEvent_cmd (s : State) : (resetEvent s).cmd = 0 := rfl
@[simp] theorem resetEvent_arg0 (s : State) : (resetEvent s).arg0 = 0 := rfl
@[simp] theorem resetEvent_res (s : State) : (resetEvent s).res = 0 := rfl
@[simp] theorem resetEvent_status (s : State) : (resetEvent s).status = .ok := rfl
@[simp] theorem resetEvent_bufptr (s : State) : (resetEvent s).bufptr = 0 := rfl
@[simp] theorem resetEvent_flags (s : State) : (resetEvent s).flags = 0 := rfl
@[simp] theorem resetEvent_buf (s : State) : (resetEvent s).buf = [] := rfl
@[simp] theorem resetEvent_hbuf (s : State) : (resetEvent s).hbuf = [] := rfl
@[simp] theorem resetEvent_low (s : State) : (resetEvent s).low = [] := rfl
@[simp] theorem resetEvent_dv (s : State) : (resetEvent s).dv = .empty := rfl
@[simp] theorem resetEvent_sv (s : State) : (resetEvent s).sv = .empty := rfl
@[simp] theorem resetEvent_bufBytes (s : State) : (resetEvent s).bufBytes = s.bufBytes := rfl
@[simp] theorem resetEvent_powerUps (s : State) : (resetEvent s).powerUps = s.powerUps + 1 := rfl
@[simp] theorem resetEvent_draws (s : State) : (resetEvent s).draws = s.draws := rfl
@[simp] theorem resetEvent_inputs (s : State) : (resetEvent s).inputs = s.inputs := rfl
@[simp] theorem resetEvent_outputs (s : State) : (resetEvent s).outputs = s.outputs := rfl

/-! ## The bits of `FLAGS` (10_state.md R18) -/

theorem setFlag_getLsbD (k i : Nat) (hk : k < 3) (b : Bool) (f : BitVec 3) :
    (setFlag k b f).getLsbD i = if i = k then b else f.getLsbD i := by
  have hi : i < 3 ∨ 3 ≤ i := by omega
  rcases hi with hi | hi
  · obtain rfl | rfl | rfl : k = 0 ∨ k = 1 ∨ k = 2 := by omega
    all_goals obtain rfl | rfl | rfl : i = 0 ∨ i = 1 ∨ i = 2 := by omega
    all_goals revert f b; decide
  · have h : i ≠ k := by omega
    rw [if_neg h, BitVec.getLsbD_of_ge _ _ hi, BitVec.getLsbD_of_ge _ _ hi]

@[simp] theorem dvalid_setDvalid (b : Bool) (s : State) : (s.setDvalid b).dvalid = b := by
  exact (setFlag_getLsbD _ _ (by decide) _ _).trans (by simp)
@[simp] theorem svalid_setDvalid (b : Bool) (s : State) : (s.setDvalid b).svalid = s.svalid := by
  exact (setFlag_getLsbD _ _ (by decide) _ _).trans (by simp [State.svalid])
@[simp] theorem sdegen_setDvalid (b : Bool) (s : State) : (s.setDvalid b).sdegen = s.sdegen := by
  exact (setFlag_getLsbD _ _ (by decide) _ _).trans (by simp [State.sdegen])
@[simp] theorem dvalid_setSvalid (b : Bool) (s : State) : (s.setSvalid b).dvalid = s.dvalid := by
  exact (setFlag_getLsbD _ _ (by decide) _ _).trans (by simp [State.dvalid])
@[simp] theorem svalid_setSvalid (b : Bool) (s : State) : (s.setSvalid b).svalid = b := by
  exact (setFlag_getLsbD _ _ (by decide) _ _).trans (by simp)
@[simp] theorem sdegen_setSvalid (b : Bool) (s : State) : (s.setSvalid b).sdegen = s.sdegen := by
  exact (setFlag_getLsbD _ _ (by decide) _ _).trans (by simp [State.sdegen])
@[simp] theorem dvalid_setSdegen (b : Bool) (s : State) : (s.setSdegen b).dvalid = s.dvalid := by
  exact (setFlag_getLsbD _ _ (by decide) _ _).trans (by simp [State.dvalid])
@[simp] theorem svalid_setSdegen (b : Bool) (s : State) : (s.setSdegen b).svalid = s.svalid := by
  exact (setFlag_getLsbD _ _ (by decide) _ _).trans (by simp [State.svalid])
@[simp] theorem sdegen_setSdegen (b : Bool) (s : State) : (s.setSdegen b).sdegen = b := by
  exact (setFlag_getLsbD _ _ (by decide) _ _).trans (by simp)

@[simp] theorem dvalid_finish (v : Nat) (s : State) : (finish v s).dvalid = s.dvalid := rfl
@[simp] theorem dvalid_raise (e : Failure) (s : State) : (raise e s).dvalid = s.dvalid := rfl
@[simp] theorem dvalid_ask (s : State) (v : Nat) : (s.ask v).dvalid = s.dvalid := rfl
@[simp] theorem dvalid_setMemory (s : State) (m : ByteMemory) (x : Memory) : (s.setMemory m x).dvalid = s.dvalid :=
  by cases m <;> rfl
@[simp] theorem dvalid_resetEvent (s : State) : (resetEvent s).dvalid = false := by
  simp [State.dvalid]
@[simp] theorem svalid_finish (v : Nat) (s : State) : (finish v s).svalid = s.svalid := rfl
@[simp] theorem svalid_raise (e : Failure) (s : State) : (raise e s).svalid = s.svalid := rfl
@[simp] theorem svalid_ask (s : State) (v : Nat) : (s.ask v).svalid = s.svalid := rfl
@[simp] theorem svalid_setMemory (s : State) (m : ByteMemory) (x : Memory) : (s.setMemory m x).svalid = s.svalid :=
  by cases m <;> rfl
@[simp] theorem svalid_resetEvent (s : State) : (resetEvent s).svalid = false := by
  simp [State.svalid]
@[simp] theorem sdegen_finish (v : Nat) (s : State) : (finish v s).sdegen = s.sdegen := rfl
@[simp] theorem sdegen_raise (e : Failure) (s : State) : (raise e s).sdegen = s.sdegen := rfl
@[simp] theorem sdegen_ask (s : State) (v : Nat) : (s.ask v).sdegen = s.sdegen := rfl
@[simp] theorem sdegen_setMemory (s : State) (m : ByteMemory) (x : Memory) : (s.setMemory m x).sdegen = s.sdegen :=
  by cases m <;> rfl
@[simp] theorem sdegen_resetEvent (s : State) : (resetEvent s).sdegen = false := by
  simp [State.sdegen]

/-- Clearing the three bits clears all of `FLAGS`: it has no fourth bit (R18). -/
theorem clear_all_flags (f : BitVec 3) : setFlag 2 false (setFlag 1 false (setFlag 0 false f)) = 0 := by
  revert f; decide

/-! ## Reads of memory after an update that writes none -/

@[simp] theorem setDvalid_peek (b : Bool) (s : State) (m : ByteMemory) (a : Nat) : (s.setDvalid b).peek m a = s.peek m a :=
  by cases m <;> rfl
@[simp] theorem setSvalid_peek (b : Bool) (s : State) (m : ByteMemory) (a : Nat) : (s.setSvalid b).peek m a = s.peek m a :=
  by cases m <;> rfl
@[simp] theorem setSdegen_peek (b : Bool) (s : State) (m : ByteMemory) (a : Nat) : (s.setSdegen b).peek m a = s.peek m a :=
  by cases m <;> rfl
@[simp] theorem finish_peek (v : Nat) (s : State) (m : ByteMemory) (a : Nat) : (finish v s).peek m a = s.peek m a :=
  by cases m <;> rfl
@[simp] theorem raise_peek (e : Failure) (s : State) (m : ByteMemory) (a : Nat) : (raise e s).peek m a = s.peek m a :=
  by cases m <;> rfl
@[simp] theorem ask_peek (s : State) (v : Nat) (m : ByteMemory) (a : Nat) : (s.ask v).peek m a = s.peek m a :=
  by cases m <;> rfl

/-- A bit is read off its byte (20_memory.md R41). -/
theorem bitAt_congr {s t : State} {m : ByteMemory} (h : ∀ a, t.peek m a = s.peek m a) (o : Nat) :
    t.bitAt m o = s.bitAt m o := by
  simp [State.bitAt, h]

/-- `Ones` depends on the source's bytes alone (R43). -/
theorem ones_congr {s t : State} {src : Source} (h : ∀ a, t.peek src.memory a = s.peek src.memory a) (a b : Nat) :
    t.ones src a b = s.ones src a b := by
  simp only [State.ones]
  congr 1
  funext o
  exact bitAt_congr h o

/-- A dense context stays a built one in a state with the same capacity and the same source bytes. -/
theorem DenseOk_congr {s t : State} {c : DenseContext} (hc : t.bufBytes = s.bufBytes)
    (h : ∀ a, t.peek c.src.memory a = s.peek c.src.memory a) (ok : DenseOk s c) : DenseOk t c where
  length_le := by simpa [State.maxLen, hc] using ok.length_le
  nbytes_eq := ok.nbytes_eq
  nlarge_eq := ok.nlarge_eq
  nsmall_eq := ok.nsmall_eq
  large_length := ok.large_length
  small_length := ok.small_length
  large_eq k hk := by rw [ones_congr h]; exact ok.large_eq k hk
  small_eq j hj := by rw [ones_congr h]; exact ok.small_eq j hj
  rank1Max_eq := by rw [ones_congr h]; exact ok.rank1Max_eq

/-- The set positions depend on the source's bytes alone. -/
theorem setPosition_congr {s t : State} {src : Source} (h : ∀ a, t.peek src.memory a = s.peek src.memory a)
    (length i : Nat) : t.setPosition src length i = s.setPosition src length i := by
  have : t.bitAt src.memory = s.bitAt src.memory := funext fun o => bitAt_congr h o
  simp [State.setPosition, State.setPositions, this]

/-- A sparse structure stays a built one in a state with the same capacity, `SV`, `SDEGEN` and bytes. -/
theorem SparseOk_congr {s t : State} (hc : t.bufBytes = s.bufBytes) (hv : t.sv = s.sv) (hg : t.sdegen = s.sdegen)
    (h : ∀ m a, t.peek m a = s.peek m a) (ok : SparseOk s) : SparseOk t where
  length_le := by simpa [State.maxLen, hc, hv] using ok.length_le
  weight_pos := by simpa [hv] using ok.weight_pos
  weight_eq := by rw [hv, ones_congr (h _)]; exact ok.weight_eq
  lastSetPos_eq := by rw [hv, setPosition_congr (h _)]; exact ok.lastSetPos_eq
  lowLength_eq := by simpa [hv] using ok.lowLength_eq
  highLength_eq := by simpa [hv] using ok.highLength_eq
  lowMask_eq := by simpa [hv] using ok.lowMask_eq
  degenerate_eq := by simpa [hv] using ok.degenerate_eq
  sdegen_eq := by rw [hg, hv]; exact ok.sdegen_eq
  inner_ok := by rw [hv]; exact DenseOk_congr hc (h _) ok.inner_ok
  degenerate_inner := by simpa [hv] using ok.degenerate_inner
  general_inner := by simpa [hv] using ok.general_inner
  high_bits := by
    simp only [hv, bitAt_congr (h _), setPosition_congr (h _)]
    exact ok.high_bits
  low_bits := by
    simp only [hv, bitAt_congr (h _), setPosition_congr (h _)]
    exact ok.low_bits

end Sys2Proof.Machine
end

