-- ==== Sys2Proof/Laws/Bits.lean ====
section
/-! SUPPORT. The specification functions: `Ones` adds up, and the context the spec describes. -/

namespace Sys2Proof.Machine

@[simp] theorem ones_self (s : State) (src : Source) (a : Nat) : s.ones src a a = 0 := by
  simp [State.ones]

/-- One more position counts its own bit (20_memory.md R43). -/
theorem ones_succ (s : State) (src : Source) {a b : Nat} (h : a ≤ b) :
    s.ones src a (b + 1) = s.ones src a b + (s.bitAt src.memory b).toNat := by
  simp only [State.ones]
  rw [show b + 1 - a = (b - a) + 1 by omega, List.range'_concat, List.countP_append]
  rw [show a + 1 * (b - a) = b by omega]
  cases hb : s.bitAt src.memory b <;> simp [hb]

/-- `Ones` of adjoining ranges adds up. -/
theorem ones_add (s : State) (src : Source) {a b c : Nat} (hab : a ≤ b) (hbc : b ≤ c) :
    s.ones src a b + s.ones src b c = s.ones src a c := by
  induction c, hbc using Nat.le_induction with
  | base => simp
  | succ c hbc ih => rw [ones_succ s src hbc, ones_succ s src (by omega : a ≤ c), ← ih, Nat.add_assoc]

/-- `Ones` of a range is at most its size. -/
theorem ones_le (s : State) (src : Source) (a b : Nat) : s.ones src a b ≤ b - a := by
  simpa [State.ones] using List.countP_le_length (p := s.bitAt src.memory) (l := List.range' a (b - a))

/-- Zeros and ones of a range make up its size. -/
theorem ones_add_zeros (s : State) (src : Source) (a b : Nat) : s.ones src a b + s.zeros src a b = b - a := by
  have := ones_le s src a b
  simp only [State.zeros]
  omega

/-- The context R23 to R26 describe over the machine's bytes. -/
def specContext (s : State) (src : Source) (length : Nat) : DenseContext :=
  { src := src, length := length, nbytes := (length + 7) / 8, nlarge := length / 65536 + 1,
    nsmall := length / 128 + 1,
    large := (List.range (length / 65536 + 1)).map fun k => s.ones src 0 (65536 * k),
    small := (List.range (length / 128 + 1)).map fun j => s.ones src (65536 * (j / 512)) (128 * j),
    rank1Max := s.ones src 0 length }

/-- It is a built context wherever its length is within the capacity. -/
theorem specContext_ok {s : State} {src : Source} {length : Nat} (h : length ≤ s.maxLen) :
    DenseOk s (specContext s src length) where
  length_le := h
  nbytes_eq := rfl
  nlarge_eq := rfl
  nsmall_eq := rfl
  large_length := by simp [specContext]
  small_length := by simp [specContext]
  large_eq k hk := by
    simp only [specContext] at hk ⊢
    simp [List.getElem?_map, List.getElem?_range hk]
  small_eq j hj := by
    simp only [specContext] at hj ⊢
    simp [List.getElem?_map, List.getElem?_range hj]
  rank1Max_eq := rfl

/-- A built context is that one: `DenseOk` fixes every field but the source and the length. -/
theorem eq_specContext {s : State} {c : DenseContext} (ok : DenseOk s c) : c = specContext s c.src c.length := by
  obtain ⟨src, length, nbytes, nlarge, nsmall, large, small, rank1Max⟩ := c
  have h1 := ok.nbytes_eq
  have h2 := ok.nlarge_eq
  have h3 := ok.nsmall_eq
  have h4 := ok.large_length
  have h5 := ok.small_length
  have h6 := ok.large_eq
  have h7 := ok.small_eq
  have h8 := ok.rank1Max_eq
  simp only at h1 h2 h3 h4 h5 h6 h7 h8
  subst h1 h2 h3 h8
  simp only [specContext, DenseContext.mk.injEq, true_and, and_true]
  constructor
  · apply List.ext_getElem?
    intro k
    by_cases hk : k < length / 65536 + 1
    · rw [h6 k hk]
      simp [List.getElem?_map, List.getElem?_range hk]
    · rw [List.getElem?_eq_none (by omega), List.getElem?_eq_none (by simp; omega)]
  · apply List.ext_getElem?
    intro j
    by_cases hj : j < length / 128 + 1
    · rw [h7 j hj]
      simp [List.getElem?_map, List.getElem?_range hj]
    · rw [List.getElem?_eq_none (by omega), List.getElem?_eq_none (by simp; omega)]

end Sys2Proof.Machine
end

