-- ==== Sys2Proof/Laws/Memory.lean ====
section
/-! SUPPORT. The byte memories: a read after a write, the canonical form, and what one byte or bit access can do. -/

namespace Sys2Proof.Machine

/-! ## The list -/

theorem read?_write (m : Memory) (a x : Nat) (b : Byte) :
    Memory.read? (Memory.write m a b) x = if a = x then some b else Memory.read? m x := by
  induction m with
  | nil => rfl
  | cons c m ih =>
    obtain ⟨y, z⟩ := c
    simp only [Memory.write]
    split
    · simp only [Memory.read?]
    · split
      · subst_vars
        simp only [Memory.read?]
        split <;> rfl
      · simp only [Memory.read?, ih]
        split <;> split <;> first | rfl | omega

/-- A write adds at most its own address. -/
theorem mem_write {m : Memory} {a : Nat} {b : Byte} {x : Host.Cell} (h : x ∈ Memory.write m a b) :
    x = (a, b) ∨ x ∈ m := by
  induction m with
  | nil => simpa [Memory.write] using h
  | cons c m ih =>
    obtain ⟨y, z⟩ := c
    simp only [Memory.write] at h
    split at h
    · simpa using h
    · split at h
      · simp only [List.mem_cons] at h ⊢
        tauto
      · simp only [List.mem_cons] at h ⊢
        rcases h with h | h
        · exact .inr (.inl h)
        · rcases ih h with h | h <;> tauto

/-- The canonical form, said of neighbours. -/
theorem wf_iff_chain (m : Memory) : Memory.wf m = true ↔ List.IsChain (fun x y : Host.Cell => x.1 < y.1) m := by
  induction m with
  | nil => simp [Memory.wf]
  | cons c m ih =>
    cases m with
    | nil => simp [Memory.wf]
    | cons d m =>
      obtain ⟨a, x⟩ := c
      obtain ⟨b, y⟩ := d
      rw [List.isChain_cons_cons, ← ih]
      simp [Memory.wf]

/-- A write keeps the canonical form. -/
theorem wf_write {m : Memory} (h : Memory.wf m = true) (a : Nat) (b : Byte) :
    Memory.wf (Memory.write m a b) = true := by
  rw [wf_iff_chain] at h ⊢
  induction m with
  | nil => simp [Memory.write]
  | cons c m ih =>
    obtain ⟨y, z⟩ := c
    simp only [Memory.write]
    split
    · exact List.isChain_cons_cons.2 ⟨by assumption, h⟩
    · split
      · subst_vars
        cases m with
        | nil => simp
        | cons d m => exact List.isChain_cons_cons.2 (List.isChain_cons_cons.1 h)
      · have hm := List.IsChain.tail h
        have := ih hm
        cases m with
        | nil => exact List.isChain_cons_cons.2 ⟨by simp only; omega, List.isChain_singleton _⟩
        | cons d m =>
          obtain ⟨u, v⟩ := d
          have hyu := (List.isChain_cons_cons.1 h).1
          simp only [Memory.write] at this ⊢
          split
          · exact List.isChain_cons_cons.2 ⟨by simp only; omega, by simpa [*] using this⟩
          · split
            · exact List.isChain_cons_cons.2 ⟨by simp only; omega, by simpa [*] using this⟩
            · exact List.isChain_cons_cons.2 ⟨hyu, by simpa [*] using this⟩

/-- Writing within the capacity keeps every listed address within it. -/
theorem range_write {m : Memory} {n a : Nat} (h : ∀ x ∈ m, x.1 < n) (ha : a < n) (b : Byte) :
    ∀ x ∈ Memory.write m a b, x.1 < n := by
  intro x hx
  rcases mem_write hx with rfl | hx
  · exact ha
  · exact h x hx

/-! ## The machine's memories -/

/-- The byte read after a write of one byte. -/
theorem peek_setMemory_write (s : State) (m k : ByteMemory) (a x : Nat) (b : Byte) :
    (s.setMemory m ((s.memory m).write a b)).peek k x = if k = m ∧ a = x then b else s.peek k x := by
  by_cases hk : k = m
  · subst hk
    by_cases ha : a = x
    · simp [State.peek, read?_write, ha]
    · simp [State.peek, read?_write, ha]
  · simp [State.peek, hk]

/-- What a byte read can do: it answers the byte, and it faults exactly outside the memory (20_memory.md R40). -/
theorem readByte_eq_ok {m : ByteMemory} {a : Nat} {s : State} {b : Byte} :
    readByte m a s = .ok b ↔ a < s.bufBytes ∧ b = s.peek m a := by
  unfold readByte
  split <;> simp_all [eq_comm]

theorem readByte_of_lt {m : ByteMemory} {a : Nat} {s : State} (h : a < s.bufBytes) :
    readByte m a s = .ok (s.peek m a) := readByte_eq_ok.2 ⟨h, rfl⟩

/-- What a byte write can do. -/
theorem writeByte_eq_ok {m : ByteMemory} {a : Nat} {b : Byte} {s t : State} :
    writeByte m a b s = .ok t ↔ a < s.bufBytes ∧ t = s.setMemory m ((s.memory m).write a b) := by
  unfold writeByte
  split <;> simp_all [eq_comm]

theorem writeByte_of_lt {m : ByteMemory} {a : Nat} {b : Byte} {s : State} (h : a < s.bufBytes) :
    writeByte m a b s = .ok (s.setMemory m ((s.memory m).write a b)) := writeByte_eq_ok.2 ⟨h, rfl⟩

theorem readBit_of_lt {m : ByteMemory} {o : Nat} {s : State} (h : o < 8 * s.bufBytes) :
    readBit m o s = .ok (s.bitAt m o) := by
  have : o / 8 < s.bufBytes := by omega
  simp [readBit, readByte_of_lt this, bind, Except.bind, State.bitAt]

theorem readBit_eq_ok {m : ByteMemory} {o : Nat} {s : State} {b : Bool} :
    readBit m o s = .ok b ↔ o < 8 * s.bufBytes ∧ b = s.bitAt m o := by
  constructor
  · intro h
    by_cases ho : o < 8 * s.bufBytes
    · rw [readBit_of_lt ho] at h
      exact ⟨ho, (Except.ok.inj h).symm⟩
    · have : ¬ o / 8 < s.bufBytes := by omega
      simp [readBit, readByte, this, bind, Except.bind] at h
  · rintro ⟨ho, rfl⟩
    exact readBit_of_lt ho

/-- The mask `2^k` has the one bit `k` (43_bit_field.md R132). -/
theorem getLsbD_two_pow (k i : Nat) (hk : k < 8) : (BitVec.ofNat 8 (2 ^ k)).getLsbD i = decide (i = k) := by
  rw [BitVec.getLsbD_ofNat, Nat.testBit_two_pow]
  by_cases h : i = k
  · simp [h, hk]
  · simp [h, Ne.symm h]

/-- What setting a bit can do: it sets that bit of that memory, and nothing else (43_bit_field.md R132, R134). -/
theorem setBit_of_lt {m : ByteMemory} {o : Nat} {s : State} (h : o < 8 * s.bufBytes) :
    ∃ x, setBit m o s = .ok (s.setMemory m x) ∧
      x = (s.memory m).write (o / 8) (s.peek m (o / 8) ||| BitVec.ofNat 8 (2 ^ (o % 8))) ∧
      ∀ k i, (s.setMemory m x).bitAt k i = (s.bitAt k i || decide (k = m ∧ i = o)) := by
  have hb : o / 8 < s.bufBytes := by omega
  refine ⟨_, ?_, rfl, ?_⟩
  · simp [setBit, readByte_of_lt hb, bind, Except.bind, writeByte_of_lt hb]
  · intro k i
    simp only [State.bitAt, peek_setMemory_write]
    by_cases hc : k = m ∧ o / 8 = i / 8
    · obtain ⟨rfl, hd⟩ := hc
      rw [if_pos ⟨rfl, hd⟩, BitVec.getLsbD_or, getLsbD_two_pow _ _ (by omega), hd]
      congr 1
      have : i % 8 = o % 8 ↔ i = o := by omega
      simp [this]
    · rw [if_neg hc]
      have : ¬ (k = m ∧ i = o) := by rintro ⟨rfl, rfl⟩; exact hc ⟨rfl, rfl⟩
      simp [this]

theorem setBit_eq_ok {m : ByteMemory} {o : Nat} {s t : State} (h : setBit m o s = .ok t) :
    o < 8 * s.bufBytes ∧ ∃ x, t = s.setMemory m x ∧
      x = (s.memory m).write (o / 8) (s.peek m (o / 8) ||| BitVec.ofNat 8 (2 ^ (o % 8))) ∧
      ∀ k i, t.bitAt k i = (s.bitAt k i || decide (k = m ∧ i = o)) := by
  by_cases ho : o < 8 * s.bufBytes
  · obtain ⟨x, hx, hw, hbits⟩ := setBit_of_lt (m := m) ho
    rw [hx] at h
    obtain rfl := Except.ok.inj h
    exact ⟨ho, x, rfl, hw, hbits⟩
  · have : ¬ o / 8 < s.bufBytes := by omega
    simp [setBit, readByte, this, bind, Except.bind] at h

end Sys2Proof.Machine
end

