-- ==== Sys2Proof/Laws/Ops.lean ====
section
/-! SUPPORT. What each shared operation can do, said once: the loop, the `max`, an index entry, and the two ends of a
command. -/

namespace Sys2Proof.Machine

/-! ## Sequencing -/

@[simp] theorem ok_bind {ε α β : Type} (a : α) (f : α → Except ε β) : (Except.ok a >>= f) = f a := rfl

@[simp] theorem error_bind {ε α β : Type} (e : ε) (f : α → Except ε β) : (Except.error e >>= f) = Except.error e := rfl

/-- A sequence answers a value exactly when both parts do. -/
theorem bind_eq_ok {ε α β : Type} {x : Except ε α} {f : α → Except ε β} {b : β} :
    (x >>= f) = .ok b ↔ ∃ a, x = .ok a ∧ f a = .ok b := by
  cases x <;> simp

/-- A sequence stops exactly when one of its parts does. -/
theorem bind_eq_error {ε α β : Type} {x : Except ε α} {f : α → Except ε β} {e : ε} :
    (x >>= f) = .error e ↔ x = .error e ∨ ∃ a, x = .ok a ∧ f a = .error e := by
  cases x <;> simp

/-! ## Loops (00_scope.md R9) -/

section Loops
variable {σ : Type} {body : Nat → σ → Except Stop σ}

@[simp] theorem forUp_zero (a : Nat) (acc : σ) : forUp body a 0 acc = .ok acc := rfl

theorem forUp_succ (a n : Nat) (acc : σ) : forUp body a (n + 1) acc = body a acc >>= forUp body (a + 1) n := rfl

/-- A loop whose body keeps `P` from each index to the next ends with `P` at the end. -/
theorem forUp_keeps (P : Nat → σ → Prop) {a n : Nat} {acc r : σ} (h : forUp body a n acc = .ok r) (h0 : P a acc)
    (hs : ∀ i x y, a ≤ i → i < a + n → P i x → body i x = .ok y → P (i + 1) y) : P (a + n) r := by
  induction n generalizing a acc with
  | zero => simpa [← Except.ok.inj h] using h0
  | succ n ih =>
    obtain ⟨x, hx, hr⟩ := bind_eq_ok.1 h
    have h1 := hs a acc x (by omega) (by omega) h0 hx
    have := ih hr h1 (fun i x y hi hn => hs i x y (by omega) (by omega))
    rwa [show a + 1 + n = a + (n + 1) by omega] at this

/-- A loop whose body always answers under `P`, and keeps it, answers. -/
theorem forUp_answers (P : Nat → σ → Prop) {a n : Nat} {acc : σ} (h0 : P a acc)
    (hs : ∀ i x, a ≤ i → i < a + n → P i x → ∃ y, body i x = .ok y ∧ P (i + 1) y) :
    ∃ r, forUp body a n acc = .ok r ∧ P (a + n) r := by
  induction n generalizing a acc with
  | zero => exact ⟨acc, rfl, h0⟩
  | succ n ih =>
    obtain ⟨x, hx, h1⟩ := hs a acc (by omega) (by omega) h0
    obtain ⟨r, hr, hP⟩ := ih h1 (fun i x hi hn => hs i x (by omega) (by omega))
    refine ⟨r, ?_, ?_⟩
    · rw [forUp_succ, hx]
      exact hr
    · rwa [show a + 1 + n = a + (n + 1) by omega] at hP

/-- A loop stops only where its body does. -/
theorem forUp_stops {a n : Nat} {acc : σ} {e : Stop} (h : forUp body a n acc = .error e) :
    ∃ i x, a ≤ i ∧ i < a + n ∧ body i x = .error e := by
  induction n generalizing a acc with
  | zero => simp at h
  | succ n ih =>
    rcases bind_eq_error.1 h with h | ⟨x, -, h⟩
    · exact ⟨a, acc, by omega, by omega, h⟩
    · obtain ⟨i, y, hi, hn, hy⟩ := ih h
      exact ⟨i, y, by omega, by omega, hy⟩

end Loops

/-! ## `max` (00_scope.md R9) -/

/-- With a predicate that answers on the whole range, `lastWhere` answers the largest index at which it holds. -/
theorem lastWhere_eq_ok {P : Nat → Except Stop Bool} {p : Nat → Bool} {a n : Nat}
    (hp : ∀ k, a ≤ k → k < a + n → P k = .ok (p k)) {k : Nat} :
    lastWhere P a n = .ok k ↔ a ≤ k ∧ k < a + n ∧ p k = true ∧ ∀ m, k < m → m < a + n → p m = false := by
  induction n with
  | zero =>
    simp only [lastWhere, reduceCtorEq, false_iff, not_and]
    omega
  | succ n ih =>
    have ih := ih (fun k h1 h2 => hp k h1 (by omega))
    rw [lastWhere, hp (a + n) (by omega) (by omega), ok_bind]
    cases hpa : p (a + n) with
    | true =>
      simp only [if_pos]
      constructor
      · intro h
        obtain rfl := Except.ok.inj h
        exact ⟨by omega, by omega, hpa, fun m h1 h2 => by omega⟩
      · rintro ⟨h1, h2, h3, h4⟩
        by_cases hk : k = a + n
        · rw [hk]
        · have := h4 (a + n) (by omega) (by omega)
          simp [hpa] at this
    | false =>
      simp only [Bool.false_eq_true, if_false]
      rw [ih]
      constructor
      · rintro ⟨h1, h2, h3, h4⟩
        refine ⟨h1, by omega, h3, fun m hm1 hm2 => ?_⟩
        by_cases hm : m = a + n
        · rw [hm, hpa]
        · exact h4 m hm1 (by omega)
      · rintro ⟨h1, h2, h3, h4⟩
        have : k ≠ a + n := by rintro rfl; simp [hpa] at h3
        exact ⟨h1, by omega, h3, fun m hm1 hm2 => h4 m hm1 (by omega)⟩

/-- With a predicate that answers on the whole range and holds at its first index, `lastWhere` answers. -/
theorem lastWhere_answers {P : Nat → Except Stop Bool} {p : Nat → Bool} {a n : Nat}
    (hp : ∀ k, a ≤ k → k < a + n → P k = .ok (p k)) (hn : 0 < n) (h0 : p a = true) :
    ∃ k, lastWhere P a n = .ok k := by
  induction n with
  | zero => omega
  | succ n ih =>
    rw [lastWhere, hp (a + n) (by omega) (by omega), ok_bind]
    cases hpa : p (a + n) with
    | true => exact ⟨a + n, rfl⟩
    | false =>
      rcases Nat.eq_zero_or_pos n with rfl | hn'
      · simp [h0] at hpa
      · exact ih (fun k h1 h2 => hp k h1 (by omega)) hn'

/-- `lastWhere` never raises where its predicate does not. -/
theorem lastWhere_stops {P : Nat → Except Stop Bool} {a n : Nat} {e : Stop} (h : lastWhere P a n = .error e) :
    e = .machine .emptySearch ∨ ∃ k, a ≤ k ∧ k < a + n ∧ P k = .error e := by
  induction n with
  | zero => exact .inl (Except.error.inj h).symm
  | succ n ih =>
    rw [lastWhere] at h
    rcases bind_eq_error.1 h with h | ⟨b, -, h⟩
    · exact .inr ⟨a + n, by omega, by omega, h⟩
    · cases b with
      | true => simp at h
      | false =>
        rcases ih (by simpa using h) with h | ⟨k, h1, h2, h3⟩
        · exact .inl h
        · exact .inr ⟨k, h1, by omega, h3⟩

/-! ## Index entries -/

theorem entry_eq_ok {xs : List Nat} {k v : Nat} : entry xs k = .ok v ↔ xs[k]? = some v := by
  unfold entry
  split <;> simp_all

theorem entry_stops {xs : List Nat} {k : Nat} {e : Stop} (h : entry xs k = .error e) :
    e = .machine (.noSuchEntry k) := by
  unfold entry at h
  split at h <;> simp_all

/-! ## The ends of a command -/

/-- A command that ends with `conclude` answers a next state in one of two ways: it returns a value, or it fails. -/
theorem conclude_next {r : Except Stop Nat} {s t : State} :
    conclude r s = .next t ↔ (∃ v, r = .ok v ∧ t = finish v s) ∨ ∃ e, r = .error (.raised e) ∧ t = raise e s := by
  cases r with
  | ok v => simp [conclude, eq_comm]
  | error e => cases e <;> simp [conclude, eq_comm]

theorem conclude_not_refused (r : Except Stop Nat) (s : State) (x : Refusal) : conclude r s ≠ .refused x := by
  cases r with
  | ok v => simp [conclude]
  | error e => cases e <;> simp [conclude]

theorem conclude_fault {r : Except Stop Nat} {s : State} {f : Fault} :
    conclude r s = .fault f ↔ r = .error (.machine f) := by
  cases r with
  | ok v => simp [conclude]
  | error e => cases e <;> simp [conclude]

/-- A build answers a next state in one of two ways: the built state with result 0, or the failure. -/
theorem concludeBuild_next {r : Except Stop State} {s t : State} :
    concludeBuild r s = .next t ↔
      (∃ u, r = .ok u ∧ t = finish 0 u) ∨ ∃ e, r = .error (.raised e) ∧ t = raise e s := by
  cases r with
  | ok v => simp [concludeBuild, eq_comm]
  | error e => cases e <;> simp [concludeBuild, eq_comm]

theorem concludeBuild_not_refused (r : Except Stop State) (s : State) (x : Refusal) :
    concludeBuild r s ≠ .refused x := by
  cases r with
  | ok v => simp [concludeBuild]
  | error e => cases e <;> simp [concludeBuild]

theorem concludeBuild_fault {r : Except Stop State} {s : State} {f : Fault} :
    concludeBuild r s = .fault f ↔ r = .error (.machine f) := by
  cases r with
  | ok v => simp [concludeBuild]
  | error e => cases e <;> simp [concludeBuild]

/-- Every command that builds nothing ends with `conclude` (30_encoding.md R68). -/
theorem exec_readsOnly {i : Instr} (h : readsOnly i = true) (s : State) : ∃ r, exec i s = conclude r s := by
  cases i with
  | dbuild => simp [readsOnly] at h
  | sbuild => simp [readsOnly] at h
  | popcnt8 => exact ⟨_, rfl⟩
  | log2floor => exact ⟨_, rfl⟩
  | log2ceil => exact ⟨_, rfl⟩
  | drank1 => exact ⟨_, rfl⟩
  | dselect1 => exact ⟨_, rfl⟩
  | dselect0 => exact ⟨_, rfl⟩
  | srank1 => exact ⟨_, rfl⟩
  | sselect1 => exact ⟨_, rfl⟩

/-- No command is refused: all ten have their meaning (30_encoding.md R61). -/
theorem exec_not_refused (i : Instr) (s : State) (x : Refusal) : exec i s ≠ .refused x := by
  cases h : readsOnly i with
  | true =>
    obtain ⟨r, hr⟩ := exec_readsOnly h s
    rw [hr]
    exact conclude_not_refused r s x
  | false =>
    cases i <;> first
      | exact concludeBuild_not_refused _ _ x
      | simp [readsOnly] at h

end Sys2Proof.Machine
end

