-- ==== Sys2Proof/Laws/Frames.lean ====
section
/-! SUPPORT. What the packer, the builds and the queries can do, said once each: their frames, what they can raise, and that a
reader's answer depends on the bytes alone. -/

namespace Sys2Proof.Machine

/-! ## The packer (43_bit_field.md) -/

/-- Setting bits of one memory changes that memory only. -/
theorem setBit_frame {m : ByteMemory} {o : Nat} {s t : State} (h : setBit m o s = .ok t) :
    ∃ x, t = s.setMemory m x := by
  obtain ⟨-, x, hx, -, -⟩ := setBit_eq_ok h
  exact ⟨x, hx⟩

/-- `LowPut` changes `LOW` only (R132). -/
theorem lowPut_frame {l r value : Nat} {s t : State} (h : lowPut l r value s = .ok t) :
    t = { s with low := t.low } := by
  refine forUp_keeps (fun _ u => u = { s with low := u.low }) h rfl ?_
  intro i u u' _ _ hu hb
  split at hb
  · obtain ⟨x, hx⟩ := setBit_frame hb
    rw [hx, hu]
    rfl
  · rw [← Except.ok.inj hb]
    exact hu

/-- `HighEmit` changes `HBUF` only and returns the offset past its 1 bit (R134). -/
theorem highEmit_frame {offset gap o : Nat} {s t : State} (h : highEmit offset gap s = .ok (t, o)) :
    t = { s with hbuf := t.hbuf } ∧ o = offset + gap + 1 := by
  obtain ⟨u, hu, h⟩ := bind_eq_ok.1 h
  obtain ⟨rfl, rfl⟩ := Prod.mk.inj (Except.ok.inj h)
  obtain ⟨x, hx⟩ := setBit_frame hu
  exact ⟨by rw [hx]; rfl, rfl⟩

/-- The two clears change their memory only (R135). -/
theorem clearBits_frame {m : ByteMemory} {nbits : Nat} {s t : State} (h : clearBits m nbits s = .ok t) :
    ∃ x, t = s.setMemory m x := by
  refine forUp_keeps (fun _ u => ∃ x, u = s.setMemory m x) h ⟨s.memory m, by cases m <;> rfl⟩ ?_
  rintro i u u' _ _ ⟨x, rfl⟩ hb
  obtain ⟨-, rfl⟩ := writeByte_eq_ok.1 hb
  exact ⟨_, by cases m <;> rfl⟩

/-! ## What the internal operations can raise -/

theorem readByte_not_raised {m : ByteMemory} {a : Nat} {s : State} {e : Failure} :
    readByte m a s ≠ .error (.raised e) := by
  unfold readByte
  split <;> simp

theorem writeByte_not_raised {m : ByteMemory} {a : Nat} {b : Byte} {s : State} {e : Failure} :
    writeByte m a b s ≠ .error (.raised e) := by
  unfold writeByte
  split <;> simp

theorem entry_not_raised {xs : List Nat} {k : Nat} {e : Failure} : entry xs k ≠ .error (.raised e) := by
  intro h
  have := entry_stops h
  simp at this

theorem readBit_not_raised {m : ByteMemory} {o : Nat} {s : State} {e : Failure} :
    readBit m o s ≠ .error (.raised e) := by
  intro h
  rcases bind_eq_error.1 h with h | ⟨_, -, h⟩
  · exact readByte_not_raised h
  · simp at h

theorem setBit_not_raised {m : ByteMemory} {o : Nat} {s : State} {e : Failure} :
    setBit m o s ≠ .error (.raised e) := by
  intro h
  rcases bind_eq_error.1 h with h | ⟨_, -, h⟩
  · exact readByte_not_raised h
  · exact writeByte_not_raised h

/-- `DenseBuild` has no failure condition (41_dense_index.md R92). -/
theorem denseBuild_not_raised {src : Source} {length : Nat} {s : State} {e : Failure} :
    denseBuild src length s ≠ .error (.raised e) := by
  intro h
  rcases bind_eq_error.1 h with h | ⟨_, -, h⟩
  · obtain ⟨i, v, -, -, h⟩ := forUp_stops h
    rcases bind_eq_error.1 h with h | ⟨b, -, h⟩
    · rcases bind_eq_error.1 h with h | ⟨_, -, h⟩
      · exact readByte_not_raised h
      · simp at h
    · simp only at h
      split at h
      · split at h <;> simp at h
      · simp at h
  · simp at h

/-- `LowGet` has no failure condition (43_bit_field.md R133). -/
theorem lowGet_not_raised {l r : Nat} {s : State} {e : Failure} : lowGet l r s ≠ .error (.raised e) := by
  intro h
  obtain ⟨i, v, -, -, h⟩ := forUp_stops h
  rcases bind_eq_error.1 h with h | ⟨_, -, h⟩
  · exact readBit_not_raised h
  · simp at h

/-- Pass 2 has no failure condition (44_sparse.md R145). -/
theorem sparsePassTwo_not_raised {length weight l mask hbits : Nat} {s : State} {e : Failure} :
    sparsePassTwo length weight l mask hbits s ≠ .error (.raised e) := by
  intro h
  have clear {m n s'} : clearBits m n s' ≠ .error (.raised e) := by
    intro h
    obtain ⟨_, _, -, -, h⟩ := forUp_stops h
    exact writeByte_not_raised h
  rcases bind_eq_error.1 h with h | ⟨s1, -, h⟩
  · exact clear h
  rcases bind_eq_error.1 h with h | ⟨s2, -, h⟩
  · exact clear h
  rcases bind_eq_error.1 h with h | ⟨v, -, h⟩
  · obtain ⟨i, v, -, -, h⟩ := forUp_stops h
    rcases bind_eq_error.1 h with h | ⟨b, -, h⟩
    · exact readBit_not_raised h
    · split at h
      · rcases bind_eq_error.1 h with h | ⟨t, -, h⟩
        · obtain ⟨_, _, -, -, h⟩ := forUp_stops h
          split at h
          · exact setBit_not_raised h
          · simp at h
        · rcases bind_eq_error.1 h with h | ⟨⟨t', o⟩, -, h⟩
          · rcases bind_eq_error.1 h with h | ⟨_, -, h⟩
            · exact setBit_not_raised h
            · simp at h
          · simp at h
      · simp at h
  · simp at h

/-! ## The builds -/

/-- Pass 2 changes `LOW` and `HBUF` only (44_sparse.md R145). -/
theorem sparsePassTwo_frame {length weight l mask hbits : Nat} {s t : State}
    (h : sparsePassTwo length weight l mask hbits s = .ok t) : t = { s with low := t.low, hbuf := t.hbuf } := by
  obtain ⟨s1, h1, h⟩ := bind_eq_ok.1 h
  obtain ⟨s2, h2, h⟩ := bind_eq_ok.1 h
  obtain ⟨v, hv, h⟩ := bind_eq_ok.1 h
  obtain rfl := Except.ok.inj h
  obtain ⟨x1, rfl⟩ := clearBits_frame h1
  obtain ⟨x2, rfl⟩ := clearBits_frame h2
  refine forUp_keeps (fun _ (v : PassTwoVars) => v.state = { s with low := v.state.low, hbuf := v.state.hbuf }) hv rfl ?_
  intro i v v' _ _ hP hb
  obtain ⟨b, -, hb⟩ := bind_eq_ok.1 hb
  split at hb
  · obtain ⟨u, hu, hb⟩ := bind_eq_ok.1 hb
    obtain ⟨⟨u', o⟩, hu', hb⟩ := bind_eq_ok.1 hb
    rw [← Except.ok.inj hb]
    have e1 := lowPut_frame hu
    have e2 := (highEmit_frame hu').1
    simp only
    rw [e2, e1, hP]
  · rw [← Except.ok.inj hb]
    exact hP

/-- What `DBUILD`'s body can do: it refuses a length over the capacity, or it gives the built context (41_dense_index.md
R95). -/
theorem dbuildBody_eq_ok {s t : State} (h : dbuildBody s = .ok t) :
    s.operand ≤ s.maxLen ∧ ∃ c, denseBuild .buf s.operand s = .ok c ∧ t = ({ s with dv := c }.setDvalid true) := by
  unfold dbuildBody at h
  split at h
  · simp at h
  · obtain ⟨c, hc, h⟩ := bind_eq_ok.1 h
    exact ⟨by omega, c, hc, (Except.ok.inj h).symm⟩

theorem dbuildBody_raised {s : State} {e : Failure} (h : dbuildBody s = .error (.raised e)) :
    e = .capacity ∧ s.maxLen < s.operand := by
  unfold dbuildBody at h
  split at h
  · simp only [Except.error.injEq, Stop.raised.injEq] at h
    exact ⟨h.symm, by assumption⟩
  · rcases bind_eq_error.1 h with h | ⟨_, -, h⟩
    · exact absurd h denseBuild_not_raised
    · simp at h

/-- What `SBUILD`'s body can do when it answers: the degenerate branch or pass 2 and the inner build (44_sparse.md R140). -/
theorem sbuildBody_eq_ok {s t : State} (h : sbuildBody s = .ok t) :
    s.operand ≤ s.maxLen ∧ ∃ p, sparsePassOne s.operand s = .ok p ∧ p.weight ≠ 0 ∧
      ((log2Floor (s.operand / p.weight) = 0 ∧ ∃ c, denseBuild .buf s.operand s = .ok c ∧
          t = ({ s with sv := sparseParameters s.operand p true c }.setSdegen true |>.setSvalid true)) ∨
        (log2Floor (s.operand / p.weight) ≠ 0 ∧ ∃ u c,
          sparsePassTwo s.operand p.weight (log2Floor (s.operand / p.weight))
            (2 ^ log2Floor (s.operand / p.weight) - 1)
            (p.weight + (p.lastSetPos >>> log2Floor (s.operand / p.weight))) s = .ok u ∧
          denseBuild .hbuf (p.weight + (p.lastSetPos >>> log2Floor (s.operand / p.weight))) u = .ok c ∧
          t = ({ u with sv := sparseParameters s.operand p false c }.setSvalid true))) := by
  unfold sbuildBody at h
  split at h
  · simp at h
  · obtain ⟨p, hp, h⟩ := bind_eq_ok.1 h
    refine ⟨by omega, p, hp, ?_⟩
    split at h
    · simp at h
    · refine ⟨by assumption, ?_⟩
      simp only at h
      split at h
      · obtain ⟨c, hc, h⟩ := bind_eq_ok.1 h
        exact .inl ⟨by assumption, c, hc, (Except.ok.inj h).symm⟩
      · obtain ⟨u, hu, h⟩ := bind_eq_ok.1 h
        obtain ⟨c, hc, h⟩ := bind_eq_ok.1 h
        exact .inr ⟨by assumption, u, c, hu, hc, (Except.ok.inj h).symm⟩

/-- `SBUILD` raises `Capacity` or `ZeroWeight`, nothing else (60_exceptions.md R178). -/
theorem sbuildBody_raised {s : State} {e : Failure} (h : sbuildBody s = .error (.raised e)) :
    (e = .capacity ∧ s.maxLen < s.operand) ∨
      (e = .zeroWeight ∧ s.operand ≤ s.maxLen ∧ ∃ p, sparsePassOne s.operand s = .ok p ∧ p.weight = 0) := by
  unfold sbuildBody at h
  split at h
  · simp only [Except.error.injEq, Stop.raised.injEq] at h
    exact .inl ⟨h.symm, by assumption⟩
  · rcases bind_eq_error.1 h with h | ⟨p, hp, h⟩
    · obtain ⟨_, _, -, -, h⟩ := forUp_stops h
      rcases bind_eq_error.1 h with h | ⟨_, -, h⟩
      · exact absurd h readBit_not_raised
      · split at h <;> simp at h
    · split at h
      · simp only [Except.error.injEq, Stop.raised.injEq] at h
        exact .inr ⟨h.symm, by omega, p, hp, by assumption⟩
      · simp only at h
        split at h
        · rcases bind_eq_error.1 h with h | ⟨_, -, h⟩
          · exact absurd h denseBuild_not_raised
          · simp at h
        · rcases bind_eq_error.1 h with h | ⟨_, -, h⟩
          · exact absurd h sparsePassTwo_not_raised
          · rcases bind_eq_error.1 h with h | ⟨_, -, h⟩
            · exact absurd h denseBuild_not_raised
            · simp at h

/-- A finished `SBUILD` body has changed `LOW`, `HBUF`, `SV` and `FLAGS`, and of those `SVALID` and `SDEGEN` only. -/
theorem sbuildBody_frame {s t : State} (h : sbuildBody s = .ok t) :
    t = { s with low := t.low, hbuf := t.hbuf, sv := t.sv, flags := t.flags } ∧ t.svalid = true ∧
      t.dvalid = s.dvalid ∧ t.sv.length = s.operand ∧ (t.sv.degenerate = true → t.sdegen = true) ∧
      (t.sv.degenerate = false → t.sdegen = s.sdegen) := by
  obtain ⟨-, p, -, -, ⟨-, c, -, rfl⟩ | ⟨-, u, c, hu, -, rfl⟩⟩ := sbuildBody_eq_ok h
  · refine ⟨rfl, ?_⟩
    simp [sparseParameters, State.dvalid, State.setSdegen, State.setSvalid, State.svalid, State.sdegen,
      -BitVec.getLsbD_eq_getElem, setFlag_getLsbD]
  · have e := sparsePassTwo_frame hu
    refine ⟨by rw [e]; rfl, ?_⟩
    rw [e]
    simp [sparseParameters, State.dvalid, State.setSvalid, State.svalid, State.sdegen,
      -BitVec.getLsbD_eq_getElem, setFlag_getLsbD]

end Sys2Proof.Machine
end

