-- ==== Sys2Proof/Laws/PerInstr.lean ====
section
/-! SUPPORT. What holds of every instruction, one lemma per constructor. -/

namespace Sys2Proof.Laws.Encoding

/-- A well-formed instruction's word has format `C` (30_encoding.md R60), carries its opcode in bits 7:0, and decodes to it
(R61). -/
def Statement (i : Instr) : Prop :=
  i.wellFormed = true →
    formatC (encode i) = true ∧ (encode i).extractLsb' 0 8 = opcode i ∧ decode (encode i) = .ok i

theorem popcnt8 : Statement .popcnt8 := fun _ => by decide

theorem log2floor : Statement .log2floor := fun _ => by decide

theorem log2ceil : Statement .log2ceil := fun _ => by decide

theorem dbuild : Statement .dbuild := fun _ => by decide

theorem drank1 : Statement .drank1 := fun _ => by decide

theorem dselect1 : Statement .dselect1 := fun _ => by decide

theorem dselect0 : Statement .dselect0 := fun _ => by decide

theorem sbuild : Statement .sbuild := fun _ => by decide

theorem srank1 : Statement .srank1 := fun _ => by decide

theorem sselect1 : Statement .sselect1 := fun _ => by decide

end Sys2Proof.Laws.Encoding
end

