-- ==== Sys2Proof/Laws/Step.lean ====
section
/-! SUPPORT. What one step can do, said once: the inputs by kind. -/

namespace Sys2Proof.Machine

theorem ofNumber_number (r : HostReg) : HostReg.ofNumber r.number = some r := by
  cases r <;> rfl

theorem number_of_ofNumber {n : Nat} {r : HostReg} (h : HostReg.ofNumber n = some r) : n = r.number := by
  unfold HostReg.ofNumber at h
  split at h <;> cases h <;> rfl

theorem ofNumber_of_gt {n : Nat} (h : 15 < n) : HostReg.ofNumber n = none := by
  unfold HostReg.ofNumber
  split <;> first | rfl | omega

theorem step_idle {s : State} (h : s.inputs = []) : step s = .next s := by
  simp [step, h]

theorem step_input {s : State} {t : HostInput} {rest : List HostInput} (h : s.inputs = t :: rest) :
    step s = perform t { s with inputs := rest } := by
  simp [step, h]

/-- A step that answers a next state did one of these: nothing was pending; a command ran; an illegal word was written; another
register was written; a register was read; reset. -/
theorem step_next {s t : State} (h : step s = .next t) :
    (s.inputs = [] ∧ t = s) ∨
    ∃ rest, let u := { s with inputs := rest }
      (∃ v i, s.inputs = .write 0 v :: rest ∧ v < 2 ^ 32 ∧ decode (BitVec.ofNat 32 v) = .ok i ∧
        exec i { u with cmd := BitVec.ofNat 32 v } = .next t) ∨
      (∃ v x, s.inputs = .write 0 v :: rest ∧ v < 2 ^ 32 ∧ decode (BitVec.ofNat 32 v) = .error x ∧
        t = raise .illegalCommand { u with cmd := BitVec.ofNat 32 v }) ∨
      (∃ r v, s.inputs = .write r.number v :: rest ∧ r ≠ .cmd ∧ v < 2 ^ r.width ∧ t = writeRegister r v u) ∨
      (∃ r, s.inputs = .read r.number :: rest ∧ t = { u with outputs := s.outputs ++ [hostRead u r] }) ∨
      (s.inputs = .reset :: rest ∧ t = resetEvent u) := by
  cases hs : s.inputs with
  | nil =>
    rw [step_idle hs] at h
    exact .inl ⟨rfl, (Host.Outcome.next.inj h).symm⟩
  | cons x rest =>
    rw [step_input hs] at h
    refine .inr ⟨rest, ?_⟩
    cases x with
    | reset => exact .inr (.inr (.inr (.inr ⟨rfl, (Host.Outcome.next.inj h).symm⟩)))
    | read n =>
      simp only [perform] at h
      split at h
      · simp at h
      · rename_i r hr
        exact .inr (.inr (.inr (.inl ⟨r, by rw [number_of_ofNumber hr], (Host.Outcome.next.inj h).symm⟩)))
    | write n v =>
      simp only [perform] at h
      split at h
      · simp at h
      · rename_i r hr
        obtain rfl := number_of_ofNumber hr
        split at h
        · rename_i hv
          by_cases hc : r = .cmd
          · subst hc
            have hv' : v < 2 ^ 32 := hv
            simp only [hostWrite, issueCommand] at h
            cases hd : decode (BitVec.ofNat 32 v) with
            | ok i => exact .inl ⟨v, i, rfl, hv', hd, by simpa [hd] using h⟩
            | error x =>
              refine .inr (.inl ⟨v, x, rfl, hv', hd, ?_⟩)
              simp only [hd] at h
              exact (Host.Outcome.next.inj h).symm
          · refine .inr (.inr (.inl ⟨r, v, rfl, hc, hv, ?_⟩))
            have : hostWrite r v { s with inputs := rest } = .next (writeRegister r v { s with inputs := rest }) := by
              cases r <;> first | rfl | exact absurd rfl hc
            rw [this] at h
            exact (Host.Outcome.next.inj h).symm
        · simp at h

end Sys2Proof.Machine
end

