-- ==== Sys2Proof/Tests/Slice0.lean ====
section
/-! SUPPORT. Tests, with the expected results of spec/95_test_vectors.md and of the rules' own examples, and a witness for the
hypotheses of every statement. -/

namespace Sys2Proof.Machine.Tests

/-! ## Small states -/

/-- After reset, with a buffer of 8 bytes. -/
def bare : State := { State.reset with bufBytes := 8 }

/-- Scenario S2 after `dbuild 16`: bytes `0x55, 0x55`. -/
def dense16 : State :=
  { bare with
    buf := [(0, 0x55), (1, 0x55)], bufptr := 2, flags := 1,
    dv := { src := .buf, length := 16, nbytes := 2, nlarge := 1, nsmall := 1, large := [0], small := [0],
            rank1Max := 8 } }

/-- The bytes of vector SP64, loaded. -/
def loaded64 : State :=
  { bare with
    buf := [(0, 0x08), (1, 0x02), (2, 0x02), (3, 0x00), (4, 0x00), (5, 0x03), (6, 0x00), (7, 0x80)], bufptr := 8 }

/-- `[0x01, 0x01]` after `dbuild 16` and `sbuild 16` (95_test_vectors.md, "Small and edge cases"). -/
def sparse16 : State :=
  { bare with
    buf := [(0, 0x01), (1, 0x01)], bufptr := 2, flags := 3, hbuf := [(0, 0x05)], low := [(0, 0x00)],
    dv := { src := .buf, length := 16, nbytes := 2, nlarge := 1, nsmall := 1, large := [0], small := [0],
            rank1Max := 2 },
    sv := { length := 16, weight := 2, lowLength := 3, highLength := 1, lowMask := 7, degenerate := false,
            lastSetPos := 8,
            inner := { src := .hbuf, length := 3, nbytes := 1, nlarge := 1, nsmall := 1, large := [0], small := [0],
                       rank1Max := 2 } } }

/-- `[0xB5]` after `sbuild 8`, the degenerate form (95_test_vectors.md, "Small and edge cases"). -/
def degenerate8 : State :=
  { bare with
    buf := [(0, 0xB5)], bufptr := 1, flags := 6,
    sv := { length := 8, weight := 5, lowLength := 0, highLength := 3, lowMask := 0, degenerate := true,
            lastSetPos := 7,
            inner := { src := .buf, length := 8, nbytes := 1, nlarge := 1, nsmall := 1, large := [0], small := [0],
                       rank1Max := 5 } } }

/-- A vector that crosses a large-block boundary: 65536 bits whose values nothing fixes, with the index the spec describes. -/
def wideBase : State := { bare with bufBytes := 8192, flags := 1 }

/-- `wideBase` with its `DV`. -/
def wide : State := { wideBase with dv := specContext wideBase .buf 65536 }

/-- The next state of a result meets `p`. -/
def nextHolds (r : Result) (p : State → Bool) : Bool :=
  match r with
  | .next t => p t
  | .fault _ => false
  | .refused _ => false

theorem next_of_nextHolds {r : Result} {p : State → Bool} (h : nextHolds r p = true) :
    ∃ t, r = .next t ∧ p t = true := by
  cases r with
  | next t => exact ⟨t, rfl, h⟩
  | fault _ => simp [nextHolds] at h
  | refused _ => simp [nextHolds] at h

/-- The command answers `v`. -/
def gives (r : Result) (v : Nat) : Bool :=
  nextHolds r fun t => t.status == .ok && t.res == BitVec.ofNat 64 v

/-- The command fails with `e`. -/
def fails (r : Result) (e : Failure) : Bool :=
  nextHolds r fun t => t.status == .failed e

/-! ## Words (30_encoding.md R60, R61, R64) -/

theorem test_decode_popcnt8 : decode 0b00000000000000000000000000000001#32 = .ok .popcnt8 := by decide
theorem test_decode_log2floor : decode 0b00000000000000000000000000000010#32 = .ok .log2floor := by decide
theorem test_decode_log2ceil : decode 0b00000000000000000000000000000011#32 = .ok .log2ceil := by decide
theorem test_decode_dbuild : decode 0b00000000000000000000000000010000#32 = .ok .dbuild := by decide
theorem test_decode_drank1 : decode 0b00000000000000000000000000010001#32 = .ok .drank1 := by decide
theorem test_decode_dselect1 : decode 0b00000000000000000000000000010010#32 = .ok .dselect1 := by decide
theorem test_decode_dselect0 : decode 0b00000000000000000000000000010011#32 = .ok .dselect0 := by decide
theorem test_decode_sbuild : decode 0b00000000000000000000000000100000#32 = .ok .sbuild := by decide
theorem test_decode_srank1 : decode 0b00000000000000000000000000100001#32 = .ok .srank1 := by decide
theorem test_decode_sselect1 : decode 0b00000000000000000000000000100010#32 = .ok .sselect1 := by decide

/-- The illegal words of 95_test_vectors.md 2.7. -/
theorem test_decode_rejects :
    [0x00, 0x04, 0x0F, 0x14, 0x1F, 0x23, 0x24, 0xFF].map (fun w => decode (BitVec.ofNat 32 w)) =
        List.replicate 8 (.error .unassignedOpcode) ∧
      [0x111, 0xFFFFFFFF].map (fun w => decode (BitVec.ofNat 32 w)) =
        List.replicate 2 (.error .upperBitsNotZero) := by decide

/-- "which encoding matches" is never ambiguous: no opcode stands in two rows. -/
theorem test_opcodes_distinct : (opcodeTable.map Prod.fst).Nodup := by decide

theorem test_decodeTableWord :
    decodeTableWord 32 0x11 = some .drank1 ∧ decodeTableWord 8 0x111 = some .drank1 ∧
      decodeTableWord 32 0x111 = none := by decide

theorem test_withFetchWord_runs_popcnt8 :
    gives (step ((bare.ask 0xB5).withFetchWord 32 0x01)) 5 = true := by decide

/-- Right after reset, with nothing placed but the word: the empty vector is built. -/
theorem test_reset_runs_dbuild : gives (step (State.reset.withFetchWord 32 0x10)) 0 = true := by decide

/-! ## Ill-formed terms are refused by the checks -/

theorem test_formatC_refuses : formatC 0x00000111 = false := by decide
theorem test_input_refuses_number_16 : (HostInput.read 16).wellFormed = false := by decide
theorem test_input_refuses_write_16 : (HostInput.write 16 0).wellFormed = false := by decide
theorem test_input_refuses_wide_byte : (HostInput.write 5 256).wellFormed = false := by decide
theorem test_input_takes_byte : (HostInput.write 5 255).wellFormed = true := by decide
theorem test_instr_wellFormed : Instr.sselect1.wellFormed = true := by decide

/-! ## Constants (00_scope.md R5) -/

theorem test_constants :
    Config.largeBlockBytes * 8 = Config.largeBits ∧ Config.smallBlockBytes * 8 = Config.smallBits ∧
      Config.largeBits / Config.smallBits = Config.largeToSmall := by decide

/-! ## Commands -/

theorem test_popcnt8 : gives (exec .popcnt8 (bare.ask 0xB5)) 5 = true := by decide
theorem test_popcnt8_256 : fails (exec .popcnt8 (bare.ask 256)) .illegalOperand = true := by decide
theorem test_log2floor : gives (exec .log2floor (bare.ask (2 ^ 64 - 1))) 63 = true := by decide
theorem test_log2floor_0 : fails (exec .log2floor (bare.ask 0)) .illegalOperand = true := by decide
theorem test_log2ceil : gives (exec .log2ceil (bare.ask (2 ^ 63 + 1))) 64 = true := by decide
theorem test_log2ceil_1 : gives (exec .log2ceil (bare.ask 1)) 0 = true := by decide

/-- Vector A: the padding ones of the third byte are not counted. -/
theorem test_dbuild_masks_padding :
    nextHolds (exec .dbuild ({ bare with buf := [(0, 0xB5), (1, 0x03), (2, 0xF8)] }.ask 20))
      (fun t => t.status == .ok && t.dvalid && t.dv.rank1Max == 8 && t.dv.small == [0]) = true := by decide +kernel
theorem test_dbuild_capacity :
    nextHolds (exec .dbuild (dense16.ask 65)) (fun t => t.status == .failed .capacity && t.flags == 0) = true := by decide
theorem test_drank1 : gives (exec .drank1 (dense16.ask 5)) 3 = true := by decide
theorem test_drank1_past_length : fails (exec .drank1 (dense16.ask 17)) .outOfRange = true := by decide
theorem test_dselect1 : gives (exec .dselect1 (dense16.ask 3)) 6 = true := by decide
theorem test_dselect1_past : fails (exec .dselect1 (dense16.ask 8)) .rankOutOfRange = true := by decide
theorem test_dselect0 : gives (exec .dselect0 (dense16.ask 7)) 15 = true := by decide
theorem test_dselect0_not_built : fails (exec .dselect0 bare) .notBuilt = true := by decide

/-- Vector SP64. -/
theorem test_sbuild :
    nextHolds (exec .sbuild (loaded64.ask 64))
      (fun t => t.flags == 2 && t.hbuf == [(0, 0x15), (1, 0x13)] && t.low == [(0, 0x4B), (1, 0x90), (2, 0x03)] &&
        t.sv.lowLength == 3 && t.sv.highLength == 3 && t.sv.inner.rank1Max == 6) = true := by decide +kernel
theorem test_sbuild_zero_weight :
    fails (exec .sbuild ({ bare with buf := [(0, 0x00), (1, 0xF0)] }.ask 12)) .zeroWeight = true := by decide +kernel
theorem test_srank1 : gives (exec .srank1 (sparse16.ask 9)) 2 = true := by decide +kernel
theorem test_srank1_degenerate : gives (exec .srank1 (degenerate8.ask 5)) 3 = true := by decide +kernel
theorem test_sselect1 : gives (exec .sselect1 (sparse16.ask 1)) 8 = true := by decide +kernel
theorem test_sselect1_past : fails (exec .sselect1 (sparse16.ask 2)) .rankOutOfRange = true := by decide +kernel

/-! ## Transactions -/

/-- The last byte of the buffer is stored and ends both structures' lifetime; the next one is discarded (R17). -/
theorem test_load_stores :
    nextHolds (step { dense16 with bufptr := 7, inputs := [.write 5 0xAA] })
      (fun t => t.bufptr == 8 && t.flags == 0 && t.peek .buf 7 == 0xAA) = true := by decide
theorem test_load_discards :
    nextHolds (step { dense16 with bufptr := 8, inputs := [.write 5 0xBB] })
      (fun t => decide (t = { dense16 with bufptr := 8 })) = true := by decide
theorem test_read_dlen :
    nextHolds (step { dense16 with inputs := [.read 7] }) (fun t => t.outputs == [16]) = true := by decide
theorem test_read_status :
    nextHolds (step { bare with status := .failed .illegalOperand, inputs := [.read 3] })
      (fun t => t.outputs == [8]) = true := by decide
theorem test_write_flags_ignored :
    nextHolds (step { dense16 with inputs := [.write 6 7] }) (fun t => decide (t = dense16)) = true := by decide
theorem test_illegal_word :
    nextHolds (step { dense16 with inputs := [.write 0 0x23] })
      (fun t => t.cmd == 0x23 && t.status == .failed .illegalCommand && t.flags == 1) = true := by decide
theorem test_reset_event :
    nextHolds (step { dense16 with inputs := [.reset] }) (fun t => t.flags == 0 && t.bufptr == 0 && t.bufBytes == 8) =
      true := by decide
theorem test_pseudo_command :
    pseudoCommand 0x11 5 = [.write 1 5, .write 0 0x11, .read 3, .read 2] ∧
      pseudoLoad [0x55] = [.write 4 0, .write 5 0x55] := by decide

/-! ## Witnesses: the states meet the predicates -/

theorem dense16_ok : DenseOk dense16 dense16.dv where
  length_le := by decide
  nbytes_eq := rfl
  nlarge_eq := rfl
  nsmall_eq := rfl
  large_length := rfl
  small_length := rfl
  large_eq := by decide
  small_eq := by decide
  rank1Max_eq := by decide

theorem sparse16_dense : DenseOk sparse16 sparse16.dv where
  length_le := by decide
  nbytes_eq := rfl
  nlarge_eq := rfl
  nsmall_eq := rfl
  large_length := rfl
  small_length := rfl
  large_eq := by decide
  small_eq := by decide
  rank1Max_eq := by decide

/-- `DenseOk` speaks of the bytes and the capacity alone. -/
theorem dense16_denseOk (t : State) (hv : t.dv = dense16.dv) (hc : t.bufBytes = dense16.bufBytes)
    (h : ∀ m a, t.peek m a = dense16.peek m a) : DenseOk t t.dv := by
  rw [hv]
  exact DenseOk_congr hc (h _) dense16_ok

theorem sparse16_denseOk (t : State) (hv : t.dv = sparse16.dv) (hc : t.bufBytes = sparse16.bufBytes)
    (h : ∀ m a, t.peek m a = sparse16.peek m a) : DenseOk t t.dv := by
  rw [hv]
  exact DenseOk_congr hc (h _) sparse16_dense

theorem sparse16_inner : DenseOk sparse16 sparse16.sv.inner where
  length_le := by decide
  nbytes_eq := rfl
  nlarge_eq := rfl
  nsmall_eq := rfl
  large_length := rfl
  small_length := rfl
  large_eq := by decide
  small_eq := by decide
  rank1Max_eq := by decide

theorem sparse16_ok : SparseOk sparse16 where
  length_le := by decide
  weight_pos := by decide
  weight_eq := by decide
  lastSetPos_eq := by decide +kernel
  lowLength_eq := by decide
  highLength_eq := by decide
  lowMask_eq := by decide
  degenerate_eq := by decide
  sdegen_eq := by decide
  inner_ok := sparse16_inner
  degenerate_inner := by decide
  general_inner := by decide
  high_bits := by decide +kernel
  low_bits := by decide +kernel

theorem degenerate8_inner : DenseOk degenerate8 degenerate8.sv.inner where
  length_le := by decide
  nbytes_eq := rfl
  nlarge_eq := rfl
  nsmall_eq := rfl
  large_length := rfl
  small_length := rfl
  large_eq := by decide
  small_eq := by decide
  rank1Max_eq := by decide

theorem degenerate8_ok : SparseOk degenerate8 where
  length_le := by decide
  weight_pos := by decide
  weight_eq := by decide
  lastSetPos_eq := by decide +kernel
  lowLength_eq := by decide
  highLength_eq := by decide
  lowMask_eq := by decide
  degenerate_eq := by decide
  sdegen_eq := by decide
  inner_ok := degenerate8_inner
  degenerate_inner := by decide
  general_inner := by decide
  high_bits := by decide +kernel
  low_bits := by decide +kernel

theorem bare_core : CoreInv bare := ⟨by decide, rfl, rfl, rfl, by decide, by decide, by decide, by decide⟩

theorem sparse16_core : CoreInv sparse16 :=
  ⟨by decide, by decide, by decide, by decide, by decide, by decide, by decide, by decide⟩

theorem degenerate8_core : CoreInv degenerate8 :=
  ⟨by decide, by decide, by decide, by decide, by decide, by decide, by decide, by decide⟩

theorem sparse16_inv : Inv sparse16 :=
  ⟨sparse16_core, fun _ => ⟨rfl, sparse16_dense⟩, fun _ => sparse16_ok⟩

theorem degenerate8_inv : Inv degenerate8 :=
  ⟨degenerate8_core, fun h => absurd h (by decide), fun _ => degenerate8_ok⟩

theorem wide_ok : DenseOk wide wide.dv :=
  DenseOk_congr (s := wideBase) rfl (fun _ => rfl)
    (specContext_ok (src := .buf) (length := 65536) (by decide))

/-! ## Witnesses: the hypotheses of every statement, clause by clause, at the ends of their ranges -/

theorem witness_DecodeAndEncodeAgreeOnEveryWord : Instr.popcnt8.wellFormed = true := rfl

theorem witness_IllegalWordChangesOnlyCmdStatusRes :
    (∀ w ∈ [0x00, 0x04, 0x0F, 0x14, 0x1F, 0x23, 0xFF, 0x111],
      (BitVec.ofNat 32 w).toNat ∉ [0x01, 0x02, 0x03, 0x10, 0x11, 0x12, 0x13, 0x20, 0x21, 0x22]) ∧
    ({ dense16 with inputs := [.write 0 0x23] } : State).inputs = .write 0 (0x23#32).toNat :: [] := by decide

theorem witness_CmdWriteRunsTheDecodedCommand :
    (({ dense16 with inputs := [.write 0 0x11] } : State).inputs = .write 0 (0x11#32).toNat :: [] ∧
      decode 0x11#32 = .ok .drank1) ∧
    (({ dense16 with inputs := [.write 0 0] } : State).inputs = .write 0 (0#32).toNat :: [] ∧
      decode 0#32 = .error .unassignedOpcode) ∧
    ({ dense16 with inputs := [.read 0] } : State).inputs = .read 0 :: [] ∧
    (∃ u, step { dense16 with inputs := [.write 0 0x11] } = .next u) ∧
    ({ dense16 with inputs := [.read 0] } : State).inputs.head? ≠ some .reset ∧
    (∀ w, ({ dense16 with inputs := [.read 0] } : State).inputs.head? ≠ some (.write 0 w)) ∧
    ∃ u, step { dense16 with inputs := [.read 0] } = .next u :=
  ⟨by decide, by decide, rfl, ⟨_, rfl⟩, by decide, fun _ h => by simp at h, _, rfl⟩

theorem witness_HostReadReturnsTheRegisterAndChangesNothing :
    ∀ n ∈ List.range 16, ({ dense16 with inputs := [.read n] } : State).inputs = .read n :: [] := fun _ _ => rfl

theorem witness_ReadOnlyAndReservedRegistersIgnoreWrites :
    (∀ p ∈ [(2, 64), (3, 4), (6, 3), (7, 64), (8, 64), (9, 64), (10, 64), (11, 64), (12, 64), (13, 64), (14, 64), (15, 64)],
      2 ^ p.2 - 1 < 2 ^ p.2 ∧
        ({ dense16 with inputs := [.write p.1 (2 ^ p.2 - 1)] } : State).inputs = .write p.1 (2 ^ p.2 - 1) :: []) ∧
    15 < 16 ∧ ({ bare with inputs := [.write 16 5] } : State).inputs = .write 16 5 :: [] ∧
      ({ bare with inputs := [.read 16] } : State).inputs = .read 16 :: [] := by decide

theorem witness_Arg0AndBufptrTakeTheWrittenValue :
    ({ bare with inputs := [.write 1 (2 ^ 64 - 1)] } : State).inputs = .write 1 (BitVec.allOnes 64).toNat :: [] ∧
    ({ bare with inputs := [.write 4 (2 ^ 64 - 1)] } : State).inputs = .write 4 (BitVec.allOnes 64).toNat :: [] := by
  decide

theorem witness_LoadPortStoresOrDiscards :
    (({ dense16 with bufptr := 7, inputs := [.write 5 255] } : State).bufBytes ≤ 2 ^ 60 ∧
      ({ dense16 with bufptr := 7, inputs := [.write 5 255] } : State).inputs = .write 5 (255#8).toNat :: [] ∧
      ({ dense16 with bufptr := 7, inputs := [.write 5 255] } : State).bufptr.toNat <
        ({ dense16 with bufptr := 7, inputs := [.write 5 255] } : State).bufBytes) ∧
    (({ dense16 with bufptr := 8, inputs := [.write 5 255] } : State).inputs = .write 5 (255#8).toNat :: [] ∧
      ({ dense16 with bufptr := 8, inputs := [.write 5 255] } : State).bufBytes ≤
        ({ dense16 with bufptr := 8, inputs := [.write 5 255] } : State).bufptr.toNat) ∧
    ({ dense16 with inputs := [.read 5] } : State).inputs = .read 5 :: [] := by decide

theorem witness_OnlyCommandsAndResetChangeStatusAndRes :
    (∃ t, step { dense16 with inputs := [.write 5 0] } = .next t) ∧
    (∀ w, ({ dense16 with inputs := [.write 5 0] } : State).inputs.head? ≠ some (.write 0 w)) ∧
    ({ dense16 with inputs := [.write 5 0] } : State).inputs.head? ≠ some .reset :=
  ⟨⟨_, rfl⟩, fun w => by simp, by simp⟩

/-- A step that sets and one that clears each flag. -/
theorem witness_FlagsChangeOnlyByBuildsLoadsAndReset :
    (∃ t, step { bare with inputs := [.write 0 0x10] } = .next t ∧ (!bare.dvalid && t.dvalid) = true) ∧
    (∃ t, step { loaded64 with arg0 := 64, inputs := [.write 0 0x20] } = .next t ∧
      (!loaded64.svalid && t.svalid) = true) ∧
    (∃ t, step { degenerate8 with flags := 0, arg0 := 8, inputs := [.write 0 0x20] } = .next t ∧ t.sdegen = true) ∧
    (∃ t, step { dense16 with inputs := [.write 5 0] } = .next t ∧ (dense16.dvalid && !t.dvalid) = true) ∧
    (∃ t, step { sparse16 with inputs := [.reset] } = .next t ∧ (sparse16.svalid && !t.svalid) = true) ∧
    ∃ t, step { degenerate8 with arg0 := 0, inputs := [.write 0 0x20] } = .next t ∧
      (degenerate8.sdegen && !t.sdegen) = true :=
  ⟨next_of_nextHolds (by decide +kernel), next_of_nextHolds (by decide +kernel),
    next_of_nextHolds (p := State.sdegen) (by decide +kernel), next_of_nextHolds (by decide +kernel),
    next_of_nextHolds (by decide +kernel), next_of_nextHolds (by decide +kernel)⟩

theorem witness_ResetEventGivesTheResetState :
    ({ dense16 with inputs := [.reset] } : State).inputs = .reset :: [] ∧
      (8 * bare.bufBytes ≤ bare.maxLen ∧ 8 * bare.bufBytes < 2 ^ 64) := by decide

theorem witness_ParameterRegistersShowExactValues :
    Inv sparse16 ∧ sparse16.dvalid = true ∧ sparse16.svalid = true := ⟨sparse16_inv, by decide, by decide⟩

theorem witness_Popcnt8CountsTheOnesOfAByte :
    (bare.ask 255).arg0.toNat ≤ 255 ∧ 255 < (bare.ask 256).arg0.toNat := by decide

theorem witness_Log2FloorIsTheLargestPowerBelow :
    (bare.ask 1).arg0.toNat ≠ 0 ∧ (bare.ask 0).arg0.toNat = 0 := by decide

theorem witness_Log2CeilIsTheSmallestPowerAbove :
    (bare.ask 1).arg0.toNat ≠ 0 ∧ (bare.ask 0).arg0.toNat = 0 := by decide

theorem witness_ValidByteClearsThePadding : 2 < (20 + 7) / 8 ∧ 20 ≤ bare.maxLen ∧ 7 < 8 := by decide

theorem witness_DenseBuildCannotFail : 64 ≤ bare.maxLen ∧ 0 ≤ bare.maxLen := by decide

theorem witness_DbuildBuildsTheIndexOrRefuses :
    (bare.ask 64).arg0.toNat ≤ (bare.ask 64).maxLen ∧ (bare.ask 65).maxLen < (bare.ask 65).arg0.toNat := by decide

theorem witness_IndexEntriesGrowByAtMostABlock :
    DenseOk wide wide.dv ∧ 0 + 1 < wide.dv.nlarge ∧ 510 + 1 < wide.dv.nsmall ∧ (510 + 1) % 512 ≠ 0 :=
  ⟨wide_ok, by decide, by decide, by decide⟩

theorem witness_IndexEntriesFitTheirMemories : DenseOk wide wide.dv := wide_ok

/-- Vector A with two different paddings. -/
theorem witness_BuildsIgnoreThePadding :
    let s := { bare with buf := [(0, 0xB5), (1, 0x03), (2, 0xF8)] }.ask 20
    let s' := { bare with buf := [(0, 0xB5), (1, 0x03), (2, 0x08)] }.ask 20
    s'.bufBytes = s.bufBytes ∧ s'.arg0 = s.arg0 ∧
      (∀ i, i < s.arg0.toNat → s'.bitAt .buf i = s.bitAt .buf i) ∧
      (∃ t, exec .dbuild s = .next t ∧ (t.status == .ok) = true) ∧
      (∃ t, exec .dbuild s' = .next t ∧ (t.status == .ok) = true) ∧
      (∃ t, exec .sbuild s = .next t ∧ (t.status == .ok) = true) ∧
      ∃ t, exec .sbuild s' = .next t ∧ (t.status == .ok) = true :=
  ⟨rfl, rfl, by decide +kernel, next_of_nextHolds (by decide +kernel), next_of_nextHolds (by decide +kernel),
    next_of_nextHolds (by decide +kernel), next_of_nextHolds (by decide +kernel)⟩

theorem witness_Drank1CountsTheOnesBeforePos :
    bare.dvalid = false ∧
    ((dense16.ask 17).dvalid = true ∧ (dense16.ask 17).dv.length < (dense16.ask 17).arg0.toNat) ∧
    ((dense16.ask 16).dvalid = true ∧ DenseOk (dense16.ask 16) (dense16.ask 16).dv ∧
      (dense16.ask 16).arg0.toNat ≤ (dense16.ask 16).dv.length) :=
  ⟨by decide, by decide, by decide, dense16_denseOk _ rfl rfl (fun _ _ => rfl), by decide⟩

theorem witness_DenseRankIsMonotoneAndAdditive :
    (wide.bufBytes ≤ 2 ^ 60 ∧ wide.dvalid = true ∧ DenseOk wide wide.dv) ∧ 65535 < wide.dv.length ∧
      65536 ≤ 65536 ∧ 65536 ≤ wide.dv.length :=
  ⟨⟨by decide, by decide, wide_ok⟩, by decide, by decide, by decide⟩

theorem witness_Dselect1FindsTheRankthOne :
    bare.dvalid = false ∧
    ((dense16.ask 8).dvalid = true ∧ (dense16.ask 8).dv.rank1Max ≤ (dense16.ask 8).arg0.toNat) ∧
    ((dense16.ask 7).dvalid = true ∧ DenseOk (dense16.ask 7) (dense16.ask 7).dv ∧
      (dense16.ask 7).arg0.toNat < (dense16.ask 7).dv.rank1Max) :=
  ⟨by decide, by decide, by decide, dense16_denseOk _ rfl rfl (fun _ _ => rfl), by decide⟩

theorem witness_Dselect0FindsTheRankthZero :
    bare.dvalid = false ∧
    ((dense16.ask 8).dvalid = true ∧
      (dense16.ask 8).dv.length - (dense16.ask 8).dv.rank1Max ≤ (dense16.ask 8).arg0.toNat) ∧
    ((dense16.ask 7).dvalid = true ∧ DenseOk (dense16.ask 7) (dense16.ask 7).dv ∧
      (dense16.ask 7).arg0.toNat < (dense16.ask 7).dv.length - (dense16.ask 7).dv.rank1Max) :=
  ⟨by decide, by decide, by decide, dense16_denseOk _ rfl rfl (fun _ _ => rfl), by decide⟩

theorem witness_BinarySearchFindsTheSameBlocks :
    DenseOk dense16 dense16.dv ∧ 7 < total dense16.dv true ∧ 7 < total dense16.dv false :=
  ⟨dense16_ok, by decide, by decide⟩

theorem witness_RankExceedsVectorNeverRaisedOnABuiltContext : denseBuild .buf 16 dense16 = .ok dense16.dv := by
  decide +kernel

theorem witness_DenseSelectUndoesRank :
    (dense16.bufBytes ≤ 2 ^ 60 ∧ dense16.dvalid = true ∧ DenseOk dense16 dense16.dv) ∧
    (15 < dense16.dv.length ∧ dense16.bitAt .buf 14 = true ∧ dense16.bitAt .buf 15 = false) ∧
    (dense16.dv.rank1Max ≤ 8 ∧ 8 < 2 ^ 64) ∧
    (DenseOk { dense16 with dv := specContext dense16 .buf 0 } (specContext dense16 .buf 0) ∧
      (specContext dense16 .buf 0).length = 0) :=
  ⟨⟨by decide, by decide, dense16_ok⟩, by decide, by decide,
    DenseOk_congr (s := dense16) rfl (fun _ => rfl) (specContext_ok (by decide)), rfl⟩

theorem witness_LowGetReadsBackLowPut :
    7 < 2 ^ 3 ∧ 1 * 3 + 3 ≤ sparse16.maxLen ∧ (∀ t, t < 3 → sparse16.bitAt .low (1 * 3 + t) = false) ∧ (0 : Nat) ≠ 1 ∧
      (2 < 1 * 3 ∨ 1 * 3 + 3 ≤ 2) := by decide

theorem witness_HighEmitSetsOneBit : 60 + 3 < bare.maxLen := by decide

theorem witness_ClearsZeroTheBytesOfTheirBits : 64 ≤ bare.maxLen := by decide

/-- A general-form build that succeeds. -/
theorem loaded64_builds : ∃ t, exec .sbuild (loaded64.ask 64) = .next t ∧
    (t.status == .ok && t.sv.degenerate == false && t.svalid && t.sv.weight * t.sv.lowLength == 18 &&
      t.sv.inner.length == 13) = true :=
  next_of_nextHolds (by decide +kernel)

theorem witness_BitsBeyondTheCodesAreZeroAfterABuild :
    ∃ t, exec .sbuild (loaded64.ask 64) = .next t ∧ t.status = .ok ∧ t.sv.degenerate = false ∧
      (t.sv.weight * t.sv.lowLength ≤ 23 ∧ 23 < 8 * ((t.sv.weight * t.sv.lowLength + 7) / 8)) ∧
      (t.sv.inner.length ≤ 15 ∧ 15 < 8 * ((t.sv.inner.length + 7) / 8)) := by
  obtain ⟨t, ht, hp⟩ := loaded64_builds
  simp only [Bool.and_eq_true, beq_iff_eq] at hp
  obtain ⟨⟨⟨⟨h1, h2⟩, -⟩, h4⟩, h5⟩ := hp
  exact ⟨t, ht, h1, h2, by rw [h4]; decide, by rw [h5]; decide⟩

theorem witness_SbuildEncodesTheSetPositionsOrRefuses :
    (loaded64.ask 65).maxLen < (loaded64.ask 65).arg0.toNat ∧
    ((loaded64.ask 3).arg0.toNat ≤ (loaded64.ask 3).maxLen ∧
      (loaded64.ask 3).ones .buf 0 (loaded64.ask 3).arg0.toNat = 0) ∧
    ((loaded64.ask 64).arg0.toNat ≤ (loaded64.ask 64).maxLen ∧
      0 < (loaded64.ask 64).ones .buf 0 (loaded64.ask 64).arg0.toNat) := by decide +kernel

theorem witness_ZeroWeightBuildsNothing :
    ((loaded64.ask 3).arg0.toNat ≤ (loaded64.ask 3).maxLen ∧
      ∀ i, i < (loaded64.ask 3).arg0.toNat → (loaded64.ask 3).bitAt .buf i = false) ∧
    ((loaded64.ask 0).arg0.toNat ≤ (loaded64.ask 0).maxLen ∧
      ∀ i, i < (loaded64.ask 0).arg0.toNat → (loaded64.ask 0).bitAt .buf i = false) ∧
    ∃ t, exec .sbuild (loaded64.ask 64) = .next t ∧ t.svalid = true :=
  ⟨by decide, by decide, next_of_nextHolds (p := State.svalid) (by decide +kernel)⟩

theorem witness_SbuildPostcondition :
    ∃ t, exec .sbuild (loaded64.ask 64) = .next t ∧ t.status = .ok ∧ t.sv.degenerate = false := by
  obtain ⟨t, ht, hp⟩ := loaded64_builds
  simp only [Bool.and_eq_true, beq_iff_eq] at hp
  exact ⟨t, ht, hp.1.1.1.1, hp.1.1.1.2⟩

theorem witness_DegenerateExactlyAboveHalfDensity :
    (SparseOk sparse16 ∧ sparse16.sv.degenerate = false) ∧ SparseOk degenerate8 ∧ degenerate8.sv.degenerate = true :=
  ⟨⟨sparse16_ok, rfl⟩, degenerate8_ok, rfl⟩

theorem witness_SparseEncodingFitsItsMemories : SparseOk sparse16 ∧ sparse16.sv.degenerate = false := ⟨sparse16_ok, rfl⟩

theorem sparse16_ask (v : Nat) : SparseOk (sparse16.ask v) :=
  SparseOk_congr (s := sparse16) rfl rfl rfl (fun _ _ => rfl) sparse16_ok

theorem degenerate8_ask (v : Nat) : SparseOk (degenerate8.ask v) :=
  SparseOk_congr (s := degenerate8) rfl rfl rfl (fun _ _ => rfl) degenerate8_ok

theorem witness_Srank1CountsTheSetPositionsBeforePos :
    dense16.svalid = false ∧
    ((sparse16.ask 17).svalid = true ∧ SparseOk (sparse16.ask 17) ∧
      (sparse16.ask 17).sv.length < (sparse16.ask 17).arg0.toNat) ∧
    ((sparse16.ask 16).svalid = true ∧ SparseOk (sparse16.ask 16) ∧
      (sparse16.ask 16).arg0.toNat ≤ (sparse16.ask 16).sv.length) ∧
    ((degenerate8.ask 8).svalid = true ∧ SparseOk (degenerate8.ask 8) ∧
      (degenerate8.ask 8).arg0.toNat ≤ (degenerate8.ask 8).sv.length) :=
  ⟨by decide, ⟨by decide, sparse16_ask 17, by decide⟩, ⟨by decide, sparse16_ask 16, by decide⟩, by decide,
    degenerate8_ask 8, by decide⟩

theorem witness_Sselect1FindsTheRankthSetPosition :
    dense16.svalid = false ∧
    ((sparse16.ask 2).svalid = true ∧ SparseOk (sparse16.ask 2) ∧
      (sparse16.ask 2).sv.weight ≤ (sparse16.ask 2).arg0.toNat) ∧
    ((sparse16.ask 1).svalid = true ∧ SparseOk (sparse16.ask 1) ∧
      (sparse16.ask 1).arg0.toNat < (sparse16.ask 1).sv.weight) ∧
    ((degenerate8.ask 5).svalid = true ∧ SparseOk (degenerate8.ask 5) ∧
      (degenerate8.ask 5).sv.weight ≤ (degenerate8.ask 5).arg0.toNat) ∧
    ((degenerate8.ask 4).svalid = true ∧ SparseOk (degenerate8.ask 4) ∧
      (degenerate8.ask 4).arg0.toNat < (degenerate8.ask 4).sv.weight) :=
  ⟨by decide, ⟨by decide, sparse16_ask 2, by decide⟩, ⟨by decide, sparse16_ask 1, by decide⟩,
    ⟨by decide, degenerate8_ask 5, by decide⟩, by decide, degenerate8_ask 4, by decide⟩

theorem witness_SparseAndDenseAgree :
    (∃ t u, exec .dbuild (loaded64.ask 64) = .next t ∧ t.status = .ok ∧ exec .sbuild t = .next u ∧ u.status = .ok) ∧
    (Inv sparse16 ∧ sparse16.dvalid = true ∧ sparse16.svalid = true ∧ sparse16.dv.length = sparse16.sv.length) := by
  refine ⟨?_, sparse16_inv, by decide, by decide, rfl⟩
  obtain ⟨t, ht, hp⟩ := next_of_nextHolds (r := exec .dbuild (loaded64.ask 64))
    (p := fun t => t.status == .ok && nextHolds (exec .sbuild t) fun u => u.status == .ok) (by decide +kernel)
  simp only [Bool.and_eq_true, beq_iff_eq] at hp
  obtain ⟨u, hu, hq⟩ := next_of_nextHolds hp.2
  exact ⟨t, u, ht, hp.1, hu, by simpa using hq⟩

theorem sparse16_inv_of_same (t : State) (hc : CoreInv t) (hd : t.dv = sparse16.dv) (hs : t.sv = sparse16.sv)
    (hb : t.bufBytes = sparse16.bufBytes) (hf : t.sdegen = sparse16.sdegen) (hp : ∀ m a, t.peek m a = sparse16.peek m a) :
    Inv t :=
  ⟨hc, fun _ => ⟨by rw [hd]; rfl, sparse16_denseOk t hd hb hp⟩,
    fun _ => SparseOk_congr (s := sparse16) hb hs hf hp sparse16_ok⟩

theorem sparse16_ask_inv (v : Nat) : Inv (sparse16.ask v) :=
  sparse16_inv_of_same _
    ⟨sparse16_core.1, sparse16_core.2, sparse16_core.3, sparse16_core.4, sparse16_core.5, sparse16_core.6,
      sparse16_core.7, sparse16_core.8⟩ rfl rfl rfl rfl fun _ _ => rfl

theorem bare_inv : Inv bare := ⟨bare_core, fun h => absurd h (by decide), fun h => absurd h (by decide)⟩

/-- Every failing row of R170's table that a state of the invariant reaches, at its boundary operand; the operand one short of
it succeeds; and an illegal word. -/
theorem witness_EveryFailureHasItsCause :
    (∀ v, Inv (sparse16.ask v)) ∧
    (∀ row ∈ [(Instr.drank1, 17, Failure.outOfRange), (.srank1, 17, .outOfRange), (.dselect1, 2, .rankOutOfRange),
        (.dselect0, 14, .rankOutOfRange), (.sselect1, 2, .rankOutOfRange), (.sbuild, 0, .zeroWeight),
        (.dbuild, 65, .capacity), (.sbuild, 65, .capacity), (.popcnt8, 256, .illegalOperand),
        (.log2floor, 0, .illegalOperand), (.log2ceil, 0, .illegalOperand)],
      nextHolds (exec row.1 (sparse16.ask row.2.1)) (fun t => t.status == .failed row.2.2) = true) ∧
    (∀ row ∈ [(Instr.drank1, 16), (.srank1, 16), (.dselect1, 1), (.dselect0, 13), (.sselect1, 1), (.popcnt8, 255),
        (.log2floor, 1), (.log2ceil, 1), (.dbuild, 64), (.sbuild, 1)],
      nextHolds (exec row.1 (sparse16.ask row.2)) (fun t => t.status == .ok) = true) ∧
    (Inv bare ∧ ∀ i ∈ [Instr.drank1, .dselect1, .dselect0, .srank1, .sselect1],
      nextHolds (exec i bare) (fun t => t.status == .failed .notBuilt) = true) ∧
    (Inv { sparse16 with inputs := [.write 0 0x23] } ∧
      ({ sparse16 with inputs := [.write 0 0x23] } : State).inputs = .write 0 (0x23#32).toNat :: [] ∧
      ∃ t, step { sparse16 with inputs := [.write 0 0x23] } = .next t ∧ t.status = .failed .illegalCommand) :=
  ⟨sparse16_ask_inv, by decide +kernel, by decide +kernel, ⟨bare_inv, by decide +kernel⟩,
    sparse16_inv_of_same _
      ⟨sparse16_core.1, sparse16_core.2, sparse16_core.3, sparse16_core.4, sparse16_core.5, sparse16_core.6,
        sparse16_core.7, sparse16_core.8⟩ rfl rfl rfl rfl fun _ _ => rfl, rfl, _, rfl, rfl⟩

theorem witness_FailureHasNoOtherEffect :
    (∃ t, exec .drank1 bare = .next t ∧ t.status = .failed .notBuilt) ∧
    (∃ t, exec .dbuild (dense16.ask 65) = .next t ∧ t.status = .failed .capacity) ∧
    ∃ t, exec .sbuild (sparse16.ask 0) = .next t ∧ t.status = .failed .zeroWeight :=
  ⟨⟨_, rfl, rfl⟩, ⟨_, rfl, rfl⟩, ⟨_, rfl, rfl⟩⟩

theorem witness_FailedCommandFailsAgain : ∃ t, exec .sbuild (sparse16.ask 0) = .next t ∧ t.status = .failed .zeroWeight :=
  ⟨_, rfl, rfl⟩

theorem witness_CommandsKeepTheHostsRegistersAndBuffer :
    ∃ t, exec .sbuild (loaded64.ask 64) = .next t ∧ (t.status == .ok) = true := next_of_nextHolds (by decide +kernel)

theorem witness_QueriesWriteOnlyResAndStatus : ∃ t, exec .srank1 (sparse16.ask 9) = .next t ∧ (t.res == 2) = true :=
  next_of_nextHolds (by decide +kernel)

theorem witness_QueryOrderDoesNotMatter :
    readsOnly .drank1 = true ∧ readsOnly .dselect1 = true ∧
    (∃ t, exec .drank1 (dense16.ask 17) = .next t ∧ (t.status == .failed .outOfRange) = true) ∧
    ∃ a, exec .dselect1 ((dense16.ask 17).ask 3) = .next a ∧ (a.res == 6) = true :=
  ⟨rfl, rfl, next_of_nextHolds (by decide +kernel), next_of_nextHolds (by decide +kernel)⟩

theorem witness_BuildReplacesItsOwnStructureOnly :
    (∃ t, exec .dbuild (sparse16.ask 65) = .next t ∧ (t.status == .failed .capacity) = true) ∧
    (∃ t, exec .dbuild (sparse16.ask 16) = .next t ∧ (t.status == .ok) = true) ∧
    (∃ t, exec .sbuild (sparse16.ask 65) = .next t ∧ (t.status == .failed .capacity) = true) ∧
    (∃ t, exec .sbuild (sparse16.ask 16) = .next t ∧ (t.status == .ok) = true) ∧
    SparseInv (sparse16.ask 16) ∧ DenseInv (sparse16.ask 16) :=
  ⟨next_of_nextHolds (by decide +kernel), next_of_nextHolds (by decide +kernel),
    next_of_nextHolds (by decide +kernel), next_of_nextHolds (by decide +kernel), fun _ => sparse16_ask 16,
    fun _ => ⟨rfl, sparse16_denseOk _ rfl rfl (fun _ _ => rfl)⟩⟩

theorem witness_StepKeepsMemoriesCanonical : CoreInv sparse16 ∧ ∃ t, step sparse16 = .next t :=
  ⟨sparse16_core, _, rfl⟩

/-- The valid `DV` of a state in which a step stores nothing, and one in which a step builds. -/
theorem witness_StepKeepsTheDenseIndexTrue :
    (DenseInv sparse16 ∧ sparse16.dvalid = true ∧ ∃ t, step sparse16 = .next t) ∧
    (DenseInv bare ∧ ∃ t, step { bare with inputs := [.write 0 0x10] } = .next t ∧ t.dvalid = true) :=
  ⟨⟨sparse16_inv.dense, by decide, _, rfl⟩, fun h => absurd h (by decide),
    next_of_nextHolds (p := State.dvalid) (by decide +kernel)⟩

theorem witness_StepKeepsTheSparseStructureTrue :
    (SparseInv sparse16 ∧ sparse16.svalid = true ∧ ∃ t, step sparse16 = .next t) ∧
    (SparseInv loaded64 ∧
      ∃ t, step { loaded64 with arg0 := 64, inputs := [.write 0 0x20] } = .next t ∧ t.svalid = true) :=
  ⟨⟨sparse16_inv.sparse, by decide, _, rfl⟩, fun h => absurd h (by decide),
    next_of_nextHolds (p := State.svalid) (by decide +kernel)⟩

theorem witness_NoStepFaultsFromTheInvariant : Inv sparse16 ∧ Inv degenerate8 := ⟨sparse16_inv, degenerate8_inv⟩

theorem witness_OnlyNonTransactionsAreRefused :
    (step { bare with inputs := [.write 3 16] } = .refused (.valueTooWide 3 16) ∧
      (HostInput.write 3 16).wellFormed = false) ∧
    (step { bare with inputs := [.write 0 (2 ^ 32)] } = .refused (.valueTooWide 0 (2 ^ 32)) ∧
      (HostInput.write 0 (2 ^ 32)).wellFormed = false) ∧
    step { bare with inputs := [.read 16] } = .refused (.noSuchRegister 16) ∧
      ∃ t, step { bare with inputs := [.write 5 255] } = .next t :=
  ⟨⟨rfl, rfl⟩, ⟨rfl, rfl⟩, rfl, _, rfl⟩

theorem witness_CapacityIsFixedAndIdleStepsDoNothing : bare.inputs = [] ∧ ∃ t, step dense16 = .next t := ⟨rfl, _, rfl⟩

end Sys2Proof.Machine.Tests
end

/-! PROOFS. The scope's statements: one inversion lemma for the ten commands, a property kept by byte writes is kept by pass 2
of `SBUILD`, and from these O49, O12 and O54. -/

namespace Sys2Proof.Machine

/-! ## What one command can do -/

/-- A command that answers a next state did one of these: it built nothing and ended by `finish` or `raise`; `DBUILD` finished
its body or raised with `DVALID` cleared; `SBUILD` finished its body or raised with `SVALID` and `SDEGEN` cleared
(30_encoding.md R68, 60_exceptions.md R175). -/
theorem exec_next {i : Instr} {s t : State} (h : exec i s = .next t) :
    (readsOnly i = true ∧ ((∃ v, t = finish v s) ∨ ∃ e, t = raise e s)) ∨
    (i = .dbuild ∧
      ((∃ u, dbuildBody (s.setDvalid false) = .ok u ∧ t = finish 0 u) ∨
        ∃ e, dbuildBody (s.setDvalid false) = .error (.raised e) ∧ t = raise e (s.setDvalid false))) ∨
    (i = .sbuild ∧
      ((∃ u, sbuildBody (s.setSvalid false |>.setSdegen false) = .ok u ∧ t = finish 0 u) ∨
        ∃ e, sbuildBody (s.setSvalid false |>.setSdegen false) = .error (.raised e) ∧
          t = raise e (s.setSvalid false |>.setSdegen false))) := by
  by_cases hi : readsOnly i = true
  · obtain ⟨r, hr⟩ := exec_readsOnly hi s
    rw [hr] at h
    refine .inl ⟨hi, ?_⟩
    obtain ⟨v, -, ht⟩ | ⟨e, -, ht⟩ := conclude_next.1 h
    · exact .inl ⟨v, ht⟩
    · exact .inr ⟨e, ht⟩
  · cases i with
    | dbuild => exact .inr (.inl ⟨rfl, concludeBuild_next.1 h⟩)
    | sbuild => exact .inr (.inr ⟨rfl, concludeBuild_next.1 h⟩)
    | _ => exact absurd rfl hi

/-! ## A property that byte writes keep, pass 2 keeps -/

/-- Every write of one byte of memory `m` that answers keeps `P`. -/
def KeptByWrites (m : ByteMemory) (P : State → Prop) : Prop :=
  ∀ ⦃s t : State⦄ ⦃a : Nat⦄ ⦃b : Byte⦄, P s → writeByte m a b s = .ok t → P t

section Writes
variable {P : State → Prop} {m : ByteMemory} {s t : State}

theorem setBit_keeps (hP : KeptByWrites m P) (hs : P s) {o : Nat} (h : setBit m o s = .ok t) : P t := by
  obtain ⟨b, -, hwrite⟩ := bind_eq_ok.1 h
  exact hP hs hwrite

theorem clearBits_keeps (hP : KeptByWrites m P) (hs : P s) {nbits : Nat} (h : clearBits m nbits s = .ok t) : P t :=
  forUp_keeps (fun _ => P) h hs fun _ _ _ _ _ hx hb => hP hx hb

theorem lowPut_keeps (hP : KeptByWrites .low P) (hs : P s) {l r value : Nat} (h : lowPut l r value s = .ok t) : P t := by
  refine forUp_keeps (fun _ => P) h hs fun i x y _ _ hx hb => ?_
  split at hb
  · exact setBit_keeps hP hx hb
  · rwa [← Except.ok.inj hb]

theorem highEmit_keeps (hP : KeptByWrites .hbuf P) (hs : P s) {offset gap o : Nat}
    (h : highEmit offset gap s = .ok (t, o)) : P t := by
  obtain ⟨u, hu, h⟩ := bind_eq_ok.1 h
  obtain ⟨rfl, -⟩ := Prod.mk.inj (Except.ok.inj h)
  exact setBit_keeps hP hs hu

theorem sparsePassTwoBit_keeps (hlow : KeptByWrites .low P) (hhigh : KeptByWrites .hbuf P) {l mask i : Nat}
    {v w : PassTwoVars} (hv : P v.state) (h : sparsePassTwoBit l mask i v = .ok w) : P w.state := by
  obtain ⟨b, -, h⟩ := bind_eq_ok.1 h
  split at h
  · obtain ⟨u, hu, h⟩ := bind_eq_ok.1 h
    obtain ⟨⟨u', o⟩, hu', h⟩ := bind_eq_ok.1 h
    rw [← Except.ok.inj h]
    exact highEmit_keeps hhigh (lowPut_keeps hlow hv hu) hu'
  · rwa [← Except.ok.inj h]

theorem sparsePassTwo_keeps (hlow : KeptByWrites .low P) (hhigh : KeptByWrites .hbuf P) (hs : P s)
    {length weight l mask hbits : Nat} (h : sparsePassTwo length weight l mask hbits s = .ok t) : P t := by
  obtain ⟨s1, h1, h⟩ := bind_eq_ok.1 h
  obtain ⟨s2, h2, h⟩ := bind_eq_ok.1 h
  obtain ⟨v, hv, h⟩ := bind_eq_ok.1 h
  rw [← Except.ok.inj h]
  exact forUp_keeps (fun _ (v : PassTwoVars) => P v.state) hv (clearBits_keeps hhigh (clearBits_keeps hlow hs h1) h2)
    fun _ _ _ _ _ hx hb => sparsePassTwoBit_keeps hlow hhigh hx hb

end Writes

/-! ## The memories' canonical form (O49) -/

/-- `CoreInv` depends on the capacity, the three memories, and `SDEGEN` being 0 while `SVALID` is. -/
theorem CoreInv.congr {s t : State} (ok : CoreInv s) (hc : t.bufBytes = s.bufBytes) (hb : t.buf = s.buf)
    (hh : t.hbuf = s.hbuf) (hl : t.low = s.low) (hg : t.svalid = false → t.sdegen = false) : CoreInv t where
  bufBytes_le := hc ▸ ok.bufBytes_le
  buf_wf := hb ▸ ok.buf_wf
  hbuf_wf := hh ▸ ok.hbuf_wf
  low_wf := hl ▸ ok.low_wf
  buf_range := by rw [hb, hc]; exact ok.buf_range
  hbuf_range := by rw [hh, hc]; exact ok.hbuf_range
  low_range := by rw [hl, hc]; exact ok.low_range
  sdegen_svalid := hg

/-- A byte write, which exists only below the capacity, keeps the canonical form and the range of its memory. -/
theorem coreInv_keptByWrites (m : ByteMemory) : KeptByWrites m CoreInv := by
  intro s t a b ok h
  obtain ⟨ha, rfl⟩ := writeByte_eq_ok.1 h
  cases m with
  | buf => exact { ok with buf_wf := wf_write ok.buf_wf a b, buf_range := range_write ok.buf_range ha b }
  | hbuf => exact { ok with hbuf_wf := wf_write ok.hbuf_wf a b, hbuf_range := range_write ok.hbuf_range ha b }
  | low => exact { ok with low_wf := wf_write ok.low_wf a b, low_range := range_write ok.low_range ha b }

theorem coreInv_finish {s : State} (ok : CoreInv s) (v : Nat) : CoreInv (finish v s) :=
  ok.congr rfl rfl rfl rfl ok.sdegen_svalid

theorem coreInv_raise {s : State} (ok : CoreInv s) (e : Failure) : CoreInv (raise e s) :=
  ok.congr rfl rfl rfl rfl ok.sdegen_svalid

theorem coreInv_setDvalid {s : State} (ok : CoreInv s) (b : Bool) : CoreInv (s.setDvalid b) :=
  ok.congr rfl rfl rfl rfl (by simpa using ok.sdegen_svalid)

/-- Reset lists no byte and clears `FLAGS` (10_state.md R38). -/
theorem coreInv_resetEvent {s : State} (ok : CoreInv s) : CoreInv (resetEvent s) where
  bufBytes_le := ok.bufBytes_le
  buf_wf := rfl
  hbuf_wf := rfl
  low_wf := rfl
  buf_range := by simp
  hbuf_range := by simp
  low_range := by simp
  sdegen_svalid := by simp

/-- The load port stores only below the capacity, and then clears all of `FLAGS` (10_state.md R17). -/
theorem coreInv_loadByte {s : State} (ok : CoreInv s) (b : Byte) : CoreInv (loadByte b s) := by
  unfold loadByte
  split
  · rename_i hlt
    have stored := coreInv_keptByWrites .buf ok (writeByte_of_lt (b := b) hlt)
    exact stored.congr rfl rfl rfl rfl (by simp)
  · exact ok

theorem coreInv_writeRegister {s : State} (ok : CoreInv s) (r : HostReg) (v : Nat) : CoreInv (writeRegister r v s) := by
  cases r with
  | bufdata => exact coreInv_loadByte ok _
  | cmd | arg0 | bufptr => exact ok.congr rfl rfl rfl rfl ok.sdegen_svalid
  | _ => exact ok

/-- `DBUILD` writes no memory. -/
theorem coreInv_dbuildBody {s t : State} (ok : CoreInv s) (h : dbuildBody s = .ok t) : CoreInv t := by
  obtain ⟨-, c, -, rfl⟩ := dbuildBody_eq_ok h
  have indexed : CoreInv { s with dv := c } := ok.congr rfl rfl rfl rfl ok.sdegen_svalid
  exact coreInv_setDvalid indexed true

/-- `SBUILD` writes memory in pass 2 alone and ends with `SVALID` set. -/
theorem coreInv_sbuildBody {s t : State} (ok : CoreInv s) (h : sbuildBody s = .ok t) : CoreInv t := by
  obtain ⟨-, p, -, -, ⟨-, c, -, rfl⟩ | ⟨-, u, c, hu, -, rfl⟩⟩ := sbuildBody_eq_ok h
  · exact ok.congr rfl rfl rfl rfl (by simp)
  · have written := sparsePassTwo_keeps (coreInv_keptByWrites .low) (coreInv_keptByWrites .hbuf) ok hu
    exact written.congr rfl rfl rfl rfl (by simp)

theorem coreInv_exec {i : Instr} {s t : State} (ok : CoreInv s) (h : exec i s = .next t) : CoreInv t := by
  have cleared : CoreInv (s.setSvalid false |>.setSdegen false) := ok.congr rfl rfl rfl rfl (by simp)
  obtain ⟨-, ⟨v, rfl⟩ | ⟨e, rfl⟩⟩ | ⟨-, ⟨u, hu, rfl⟩ | ⟨e, -, rfl⟩⟩ | ⟨-, ⟨u, hu, rfl⟩ | ⟨e, -, rfl⟩⟩ := exec_next h
  · exact coreInv_finish ok v
  · exact coreInv_raise ok e
  · exact coreInv_finish (coreInv_dbuildBody (coreInv_setDvalid ok false) hu) 0
  · exact coreInv_raise (coreInv_setDvalid ok false) e
  · exact coreInv_finish (coreInv_sbuildBody cleared hu) 0
  · exact coreInv_raise cleared e

/-- Settles O49, by what one step can do: a command, a register write and reset each keep `CoreInv`, and the rest touches none
of its fields. -/
theorem stepKeepsMemoriesCanonical : Obligations.StepKeepsMemoriesCanonical := by
  intro s t ok h
  obtain ⟨-, rfl⟩ | ⟨rest, hstep⟩ := step_next h
  · exact ok
  have popped : CoreInv { s with inputs := rest } := ok.congr rfl rfl rfl rfl ok.sdegen_svalid
  have issued (w : BitVec 32) : CoreInv { s with inputs := rest, cmd := w } :=
    ok.congr rfl rfl rfl rfl ok.sdegen_svalid
  obtain ⟨v, i, -, -, -, hrun⟩ | ⟨v, x, -, -, -, rfl⟩ | ⟨r, v, -, -, -, rfl⟩ | ⟨r, -, rfl⟩ | ⟨-, rfl⟩ := hstep
  · exact coreInv_exec (issued _) hrun
  · exact coreInv_raise (issued _) _
  · exact coreInv_writeRegister popped r v
  · exact ok.congr rfl rfl rfl rfl ok.sdegen_svalid
  · exact coreInv_resetEvent popped

/-! ## The parameter registers (O12) -/

/-- A valid structure's register shows every value that fits `W` bits (R7, 10_state.md R19, R20). -/
theorem toNat_gated_true {v : Nat} (h : v < 2 ^ 64) : (gated true v).toNat = v :=
  Nat.mod_eq_of_lt h

/-- R6's bound on the capacity, in bits. -/
theorem maxLen_lt {s : State} (ok : CoreInv s) : s.maxLen < 2 ^ 64 := by
  have := ok.bufBytes_le
  simp only [State.maxLen]
  omega

theorem log2Floor_lt {x : Nat} (h : x < 2 ^ 64) : log2Floor x < 64 := by
  rcases Nat.eq_zero_or_pos x with rfl | hx
  · decide
  · exact (Nat.log2_lt (by omega)).2 h

theorem log2Ceil_le {x : Nat} (h : x < 2 ^ 64) : log2Ceil x ≤ 64 := by
  unfold log2Ceil
  split
  · omega
  · exact log2Floor_lt (by omega)

/-- Both fields of a built dense context that a register shows fit `W` bits. -/
theorem DenseOk.fits {s : State} {c : DenseContext} (core : CoreInv s) (ok : DenseOk s c) :
    c.length < 2 ^ 64 ∧ c.rank1Max < 2 ^ 64 := by
  have hlen : c.length < 2 ^ 64 := Nat.lt_of_le_of_lt ok.length_le (maxLen_lt core)
  have hones := ones_le s c.src 0 c.length
  rw [← ok.rank1Max_eq] at hones
  exact ⟨hlen, by omega⟩

/-- All five fields of a built sparse structure that a register shows fit `W` bits. -/
theorem SparseOk.fits {s : State} (core : CoreInv s) (ok : SparseOk s) :
    s.sv.length < 2 ^ 64 ∧ s.sv.weight < 2 ^ 64 ∧ s.sv.lowLength < 2 ^ 64 ∧ s.sv.highLength < 2 ^ 64 ∧
      s.sv.lowMask < 2 ^ 64 := by
  have hlen : s.sv.length < 2 ^ 64 := Nat.lt_of_le_of_lt ok.length_le (maxLen_lt core)
  have hweight := ones_le s .buf 0 s.sv.length
  rw [← ok.weight_eq] at hweight
  have hlow : s.sv.lowLength < 64 := by
    rw [ok.lowLength_eq]
    exact log2Floor_lt (Nat.lt_of_le_of_lt (Nat.div_le_self _ _) hlen)
  have hhigh : s.sv.highLength ≤ 64 := by
    rw [ok.highLength_eq]
    exact Nat.le_trans (Nat.sub_le _ _) (log2Ceil_le hlen)
  have hmask : s.sv.lowMask < 2 ^ 64 := by
    rw [ok.lowMask_eq]
    have := Nat.pow_lt_pow_right Nat.one_lt_two hlow
    omega
  exact ⟨hlen, by omega, by omega, by omega, hmask⟩

/-- Settles O12: the fields of a built structure are at most `MAX_LEN`, logarithms of it, or a mask of fewer than 64 bits. -/
theorem parameterRegistersShowExactValues : Obligations.ParameterRegistersShowExactValues := by
  intro s ⟨core, dense, sparse⟩
  constructor
  · intro hd
    obtain ⟨hlen, hmax⟩ := (dense hd).2.fits core
    simp only [hostRead, hd]
    exact ⟨toNat_gated_true hlen, toNat_gated_true hmax⟩
  · intro hv
    obtain ⟨hlen, hweight, hlow, hhigh, hmask⟩ := (sparse hv).fits core
    simp only [hostRead, hv]
    exact ⟨toNat_gated_true hlen, toNat_gated_true hweight, toNat_gated_true hlow, toNat_gated_true hhigh,
      toNat_gated_true hmask⟩

/-! ## The capacity (O54) -/

@[simp] theorem loadByte_bufBytes (b : Byte) (s : State) : (loadByte b s).bufBytes = s.bufBytes := by
  unfold loadByte
  split <;> rfl

@[simp] theorem writeRegister_bufBytes (r : HostReg) (v : Nat) (s : State) :
    (writeRegister r v s).bufBytes = s.bufBytes := by
  cases r with
  | bufdata => exact loadByte_bufBytes _ s
  | _ => rfl

theorem dbuildBody_bufBytes {s t : State} (h : dbuildBody s = .ok t) : t.bufBytes = s.bufBytes := by
  obtain ⟨-, c, -, rfl⟩ := dbuildBody_eq_ok h
  rfl

theorem sbuildBody_bufBytes {s t : State} (h : sbuildBody s = .ok t) : t.bufBytes = s.bufBytes :=
  (congrArg State.bufBytes (sbuildBody_frame h).1 :)

theorem exec_bufBytes {i : Instr} {s t : State} (h : exec i s = .next t) : t.bufBytes = s.bufBytes := by
  obtain ⟨-, ⟨v, rfl⟩ | ⟨e, rfl⟩⟩ | ⟨-, ⟨u, hu, rfl⟩ | ⟨e, -, rfl⟩⟩ | ⟨-, ⟨u, hu, rfl⟩ | ⟨e, -, rfl⟩⟩ := exec_next h
  case inr.inl.inl => exact (dbuildBody_bufBytes hu :)
  case inr.inr.inl => exact (sbuildBody_bufBytes hu :)
  all_goals rfl

theorem step_bufBytes {s t : State} (h : step s = .next t) : t.bufBytes = s.bufBytes := by
  obtain ⟨-, rfl⟩ | ⟨rest, hstep⟩ := step_next h
  · rfl
  obtain ⟨v, i, -, -, -, hrun⟩ | ⟨v, x, -, -, -, rfl⟩ | ⟨r, v, -, -, -, rfl⟩ | ⟨r, -, rfl⟩ | ⟨-, rfl⟩ := hstep
  · exact (exec_bufBytes hrun :)
  · rfl
  · exact writeRegister_bufBytes r v _
  · rfl
  · rfl

/-- Settles O54, by what one step can do. -/
theorem capacityIsFixedAndIdleStepsDoNothing : Obligations.CapacityIsFixedAndIdleStepsDoNothing :=
  ⟨fun _ _ => step_bufBytes, fun _ => step_idle⟩

end Sys2Proof.Machine

/-! PROOFS. The statements of 10_state.md: `DenseBuild` and pass 2 of `SBUILD` make what `DenseOk` and `SparseOk` say (O50,
O51), rank and select on a built index answer (O52), and what each transaction does and leaves. -/

namespace Sys2Proof.Machine

/-! ## Counting the bits of a byte (20_memory.md R41 to R43) -/

/-- A bit of a byte cut to its low-order bits. -/
theorem getLsbD_lowBits (n k : Nat) (hk : k < 8) (b : Byte) :
    (lowBits n b).getLsbD k = (decide (k < n) && b.getLsbD k) := by
  simp only [lowBits, BitVec.getLsbD_and, BitVec.getLsbD_ofNat, Nat.testBit_two_pow_sub_one, hk, decide_true,
    Bool.true_and, Bool.and_comm]

/-- `VB` answers for every byte of the sequence, with the padding bits 0 (20_memory.md R42). -/
theorem validByte_answers {s : State} {src : Source} {length b : Nat} (hb : b < (length + 7) / 8)
    (hlen : length ≤ s.maxLen) :
    ∃ x, validByte src length b s = .ok x ∧
      ∀ k, k < 8 → x.getLsbD k = (decide (8 * b + k < length) && s.bitAt src.memory (8 * b + k)) := by
  have hbyte : b < s.bufBytes := by
    simp only [State.maxLen] at hlen
    omega
  refine ⟨_, by rw [validByte, readByte_of_lt hbyte, ok_bind], fun k hk => ?_⟩
  have hbit : s.bitAt src.memory (8 * b + k) = (s.peek src.memory b).getLsbD k := by
    rw [State.bitAt, show (8 * b + k) / 8 = b by omega, show (8 * b + k) % 8 = k by omega]
  rw [hbit]
  split
  · rw [decide_eq_true (by omega), Bool.true_and]
  · rw [getLsbD_lowBits _ _ hk, decide_eq_decide.2 (show k < length - 8 * b ↔ 8 * b + k < length by omega)]

/-- One more position, below a limit. -/
theorem ones_min_succ (s : State) (src : Source) (a c n : Nat) :
    s.ones src a (min (a + (n + 1)) c) =
      s.ones src a (min (a + n) c) + (decide (a + n < c) && s.bitAt src.memory (a + n)).toNat := by
  by_cases h : a + n < c
  · rw [Nat.min_eq_left (by omega), Nat.min_eq_left (by omega), ← Nat.add_assoc, ones_succ s src (by omega)]
    simp [h]
  · rw [Nat.min_eq_right (by omega), Nat.min_eq_right (by omega)]
    simp [h]

/-- The population count of a byte whose bits are those of the positions from `a` on, below the limit `c`. -/
theorem popcount8_eq_ones {s : State} {src : Source} {a c : Nat} {x : Byte} (hac : a ≤ c)
    (hx : ∀ k, k < 8 → x.getLsbD k = (decide (a + k < c) && s.bitAt src.memory (a + k))) :
    popcount8 x = s.ones src a (min (a + 8) c) := by
  simp only [ones_min_succ, popcount8, Nat.add_zero, Nat.min_eq_left hac, ones_self, Nat.zero_add,
    ← hx 1 (by decide), ← hx 2 (by decide), ← hx 3 (by decide), ← hx 4 (by decide),
    ← hx 5 (by decide), ← hx 6 (by decide), ← hx 7 (by decide)]
  simpa using congrArg Bool.toNat (hx 0 (by decide))

/-- The low-order bits of byte `b` below the limit `c` within it are the positions `[8 * b, c)`. -/
theorem popcount8_lowBits {s : State} {src : Source} {b c : Nat} (hb : 8 * b ≤ c) (hc : c ≤ 8 * b + 8) :
    popcount8 (lowBits (c - 8 * b) (s.peek src.memory b)) = s.ones src (8 * b) c := by
  rw [popcount8_eq_ones (s := s) (src := src) hb, Nat.min_eq_right hc]
  intro k hk
  rw [getLsbD_lowBits _ _ hk, State.bitAt, show (8 * b + k) / 8 = b by omega, show (8 * b + k) % 8 = k by omega,
    decide_eq_decide.2 (show k < c - 8 * b ↔ 8 * b + k < c by omega)]

/-- A whole byte holds the ones of its eight positions. -/
theorem popcount8_peek (s : State) (src : Source) (b : Nat) :
    popcount8 (s.peek src.memory b) = s.ones src (8 * b) (8 * b + 8) := by
  rw [popcount8_eq_ones (s := s) (src := src) (Nat.le_add_right _ 8), Nat.min_self]
  intro k hk
  rw [State.bitAt, show (8 * b + k) / 8 = b by omega, show (8 * b + k) % 8 = k by omega, decide_eq_true (by omega),
    Bool.true_and]

/-! ## `DenseBuild` builds the index (41_dense_index.md R90, R91) -/

/-- What `DenseBuild`'s loop has established once the first `m` positions are counted: the two accumulators make up the ones so
far, and the entries of every block begun so far stand. -/
structure BuildOk (s : State) (src : Source) (length m : Nat) (v : BuildVars) : Prop where
  largeValue_eq : v.largeValue = s.ones src 0 (65536 * (m / 65536))
  smallValue_eq : v.smallValue = s.ones src (65536 * (m / 65536)) m
  large_length : v.large.length = length / 65536 + 1
  small_length : v.small.length = length / 128 + 1
  large_eq : ∀ k, k ≤ m / 65536 → v.large[k]? = some (s.ones src 0 (65536 * k))
  small_eq : ∀ j, j ≤ m / 128 → v.small[j]? = some (s.ones src (65536 * (j / 512)) (128 * j))

theorem buildOk_initial (s : State) (src : Source) (length : Nat) :
    BuildOk s src length 0
      { smallValue := 0, largeValue := 0, large := List.replicate (length / 65536 + 1) 0,
        small := List.replicate (length / 128 + 1) 0 } where
  largeValue_eq := by simp
  smallValue_eq := by simp
  large_length := by simp
  small_length := by simp
  large_eq k hk := by
    obtain rfl : k = 0 := by omega
    simp
  small_eq j hj := by
    obtain rfl : j = 0 := by omega
    simp

/-- Setting the entry that follows the ones known so far. -/
theorem getElem?_set_next {xs : List Nat} {f : Nat → Nat} {n : Nat} (hn : n + 1 < xs.length)
    (h : ∀ k, k ≤ n → xs[k]? = some (f k)) {k : Nat} (hk : k ≤ n + 1) :
    (xs.set (n + 1) (f (n + 1)))[k]? = some (f k) := by
  rcases Nat.lt_or_eq_of_le hk with hlt | rfl
  · rw [List.getElem?_set_ne (by omega), h k (by omega)]
  · rw [List.getElem?_set_self hn]

section BlockSteps
variable {s : State} {src : Source} {length m m' : Nat} {v : BuildVars}

/-- Counting on inside a small block. -/
theorem BuildOk.countOn (ok : BuildOk s src length m v) (hm : m ≤ m') (hk : m' / 65536 = m / 65536)
    (hj : m' / 128 = m / 128) :
    BuildOk s src length m' { v with smallValue := v.smallValue + s.ones src m m' } where
  largeValue_eq := by rw [hk, ok.largeValue_eq]
  smallValue_eq := by rw [hk, ok.smallValue_eq, ones_add s src (by omega) hm]
  large_length := ok.large_length
  small_length := ok.small_length
  large_eq := by rw [hk]; exact ok.large_eq
  small_eq := by rw [hj]; exact ok.small_eq

/-- Counting to the end of a small block, inside a large one. -/
theorem BuildOk.closeSmall (ok : BuildOk s src length m v) (hm : m' = 128 * (m / 128 + 1))
    (hk : m' / 65536 = m / 65536) (hlen : m' ≤ length) :
    BuildOk s src length m'
      { v with smallValue := v.smallValue + s.ones src m m',
               small := v.small.set (m' / 128) (v.smallValue + s.ones src m m') } := by
  have counted := ok.smallValue_eq
  have hj : m' / 128 = m / 128 + 1 := by omega
  have sum : v.smallValue + s.ones src m m' = s.ones src (65536 * (m / 65536)) m' := by
    rw [counted, ones_add s src (by omega) (by omega)]
  have value : v.smallValue + s.ones src m m' =
      s.ones src (65536 * ((m / 128 + 1) / 512)) (128 * (m / 128 + 1)) := by
    rw [sum, hm, show (m / 128 + 1) / 512 = m / 65536 by omega]
  refine ⟨?_, ?_, ok.large_length, ?_, ?_, ?_⟩
  · rw [hk, ok.largeValue_eq]
  · rw [hk, sum]
  · rw [List.length_set, ok.small_length]
  · rw [hk]
    exact ok.large_eq
  · rw [hj, value]
    exact fun j => getElem?_set_next (f := fun j => s.ones src (65536 * (j / 512)) (128 * j))
      (by rw [ok.small_length]; omega) ok.small_eq

/-- Counting to the end of a large block, and of the small block that ends with it. -/
theorem BuildOk.closeLarge (ok : BuildOk s src length m v) (hm : m' = 65536 * (m / 65536 + 1))
    (hj : m' = 128 * (m / 128 + 1)) (hlen : m' ≤ length) :
    BuildOk s src length m'
      { smallValue := 0, largeValue := v.largeValue + (v.smallValue + s.ones src m m'),
        large := v.large.set (m' / 65536) (v.largeValue + (v.smallValue + s.ones src m m')),
        small := v.small.set (m' / 128) 0 } := by
  have hk : m' / 65536 = m / 65536 + 1 := by omega
  have hj' : m' / 128 = m / 128 + 1 := by omega
  have value : v.largeValue + (v.smallValue + s.ones src m m') = s.ones src 0 (65536 * (m / 65536 + 1)) := by
    rw [ok.largeValue_eq, ok.smallValue_eq, ones_add s src (by omega) (by omega), ones_add s src (by omega) (by omega),
      hm]
  have zero : 0 = s.ones src (65536 * ((m / 128 + 1) / 512)) (128 * (m / 128 + 1)) := by
    rw [show 65536 * ((m / 128 + 1) / 512) = 128 * (m / 128 + 1) by omega, ones_self]
  refine ⟨?_, ?_, ?_, ?_, ?_, ?_⟩
  · rw [hk, value]
  · rw [hk, ← hm, ones_self]
  · rw [List.length_set, ok.large_length]
  · rw [List.length_set, ok.small_length]
  · rw [hk, value]
    exact fun k => getElem?_set_next (f := fun k => s.ones src 0 (65536 * k)) (by rw [ok.large_length]; omega)
      ok.large_eq
  · rw [hj', zero]
    exact fun j => getElem?_set_next (f := fun j => s.ones src (65536 * (j / 512)) (128 * j))
      (by rw [ok.small_length]; omega) ok.small_eq

end BlockSteps

/-- One byte of the loop: it closes a large block, or a small block inside one, or no block. -/
theorem denseBuildByte_answers {s : State} {src : Source} {length i : Nat} {v : BuildVars}
    (hlen : length ≤ s.maxLen) (hi : i < (length + 7) / 8) (ok : BuildOk s src length (min (8 * i) length) v) :
    ∃ w, denseBuildByte src length s i v = .ok w ∧ BuildOk s src length (min (8 * (i + 1)) length) w := by
  obtain ⟨x, hx, hbits⟩ := validByte_answers (s := s) (src := src) hi hlen
  have hpop := popcount8_eq_ones (s := s) (src := src) (by omega) hbits
  rw [Nat.min_eq_left (by omega)] at ok
  rw [denseBuildByte, hx, ok_bind, hpop, ← Nat.mul_succ]
  by_cases hblock : (i + 1) % 16 = 0 ∧ 8 * (i + 1) ≤ length
  · rw [Nat.min_eq_left hblock.2, show (i + 1) / 16 = 8 * (i + 1) / 128 by omega,
      show (i + 1) / 8192 = 8 * (i + 1) / 65536 by omega]
    by_cases hlarge : (i + 1) % 8192 = 0
    · simp only [if_pos hblock, if_pos hlarge]
      exact ⟨_, rfl, ok.closeLarge (by omega) (by omega) hblock.2⟩
    · simp only [if_pos hblock, if_neg hlarge]
      exact ⟨_, rfl, ok.closeSmall (by omega) (by omega) hblock.2⟩
  · simp only [if_neg hblock]
    exact ⟨_, rfl, ok.countOn (by omega) (by omega) (by omega)⟩

/-- `DenseBuild` answers for every length the buffer can hold, with the context R23 to R26 describe (R91, R92). -/
theorem denseBuild_answers {s : State} {length : Nat} (src : Source) (hlen : length ≤ s.maxLen) :
    denseBuild src length s = .ok (specContext s src length) := by
  obtain ⟨v, hv, hok⟩ := forUp_answers (body := denseBuildByte src length s) (a := 0) (n := (length + 7) / 8)
    (fun i v => BuildOk s src length (min (8 * i) length) v)
    (by simpa using buildOk_initial s src length)
    (fun i v _ hi hok => denseBuildByte_answers hlen (by omega) hok)
  rw [Nat.zero_add, Nat.min_eq_right (by omega)] at hok
  obtain ⟨hlv, hsv, hll, hsl, hlarge, hsmall⟩ := hok
  rw [denseBuild, hv, ok_bind]
  refine congrArg Except.ok (eq_specContext (s := s) ⟨hlen, rfl, rfl, rfl, hll, hsl, ?_, ?_, ?_⟩)
  · exact fun k hk => hlarge k (by simp only at hk; omega)
  · exact fun j hj => hsmall j (by simp only at hj; omega)
  · simp only
    rw [hlv, hsv, ones_add s src (by omega) (by omega)]

/-- What `DenseBuild` answers is the context R23 to R26 describe. -/
theorem denseBuild_eq_ok {s : State} {src : Source} {length : Nat} {c : DenseContext} (hlen : length ≤ s.maxLen)
    (h : denseBuild src length s = .ok c) : c = specContext s src length := by
  rw [denseBuild_answers src hlen] at h
  exact (Except.ok.inj h).symm

/-! ## What a step does to the structures -/

/-- `t` has the flags, memories, structures and capacity of `s`: between the two nothing but a register without effect on them
was written. -/
structure KeepsStructures (s t : State) : Prop where
  flags : t.flags = s.flags
  buf : t.buf = s.buf
  hbuf : t.hbuf = s.hbuf
  low : t.low = s.low
  dv : t.dv = s.dv
  sv : t.sv = s.sv
  bufBytes : t.bufBytes = s.bufBytes
  powerUps : t.powerUps = s.powerUps

/-- `DenseInv` depends on `DVALID`, `DV`, the capacity and the bytes of `BUF`. -/
theorem DenseInv.congr {s t : State} (ok : DenseInv s) (hd : t.dvalid = s.dvalid) (hv : t.dv = s.dv)
    (hc : t.bufBytes = s.bufBytes) (hb : ∀ a, t.peek .buf a = s.peek .buf a) : DenseInv t := by
  intro hvalid
  obtain ⟨hsrc, hok⟩ := ok (hd ▸ hvalid)
  rw [hv]
  exact ⟨hsrc, DenseOk_congr hc (by rw [hsrc]; exact hb) hok⟩

section KeepsStructures
variable {s t : State} (h : KeepsStructures s t)
include h

theorem KeepsStructures.dvalid : t.dvalid = s.dvalid := by rw [State.dvalid, h.flags, State.dvalid]

theorem KeepsStructures.svalid : t.svalid = s.svalid := by rw [State.svalid, h.flags, State.svalid]

theorem KeepsStructures.sdegen : t.sdegen = s.sdegen := by rw [State.sdegen, h.flags, State.sdegen]

theorem KeepsStructures.peek (m : ByteMemory) (a : Nat) : t.peek m a = s.peek m a := by
  have hm : t.memory m = s.memory m := by
    cases m
    · exact h.buf
    · exact h.hbuf
    · exact h.low
  rw [State.peek, hm, h.powerUps, State.peek]

theorem KeepsStructures.coreInv (ok : CoreInv s) : CoreInv t :=
  ok.congr h.bufBytes h.buf h.hbuf h.low (by rw [h.svalid, h.sdegen]; exact ok.sdegen_svalid)

theorem KeepsStructures.denseInv (ok : DenseInv s) : DenseInv t :=
  ok.congr h.dvalid h.dv h.bufBytes (h.peek _)

theorem KeepsStructures.sparseInv (ok : SparseInv s) : SparseInv t :=
  fun hv => SparseOk_congr h.bufBytes h.sv h.sdegen h.peek (ok (h.svalid ▸ hv))

theorem KeepsStructures.inv (ok : Inv s) : Inv t :=
  ⟨h.coreInv ok.core, h.denseInv ok.dense, h.sparseInv ok.sparse⟩

end KeepsStructures

theorem keepsStructures_finish (v : Nat) (s : State) : KeepsStructures s (finish v s) :=
  ⟨rfl, rfl, rfl, rfl, rfl, rfl, rfl, rfl⟩

theorem keepsStructures_raise (e : Failure) (s : State) : KeepsStructures s (raise e s) :=
  ⟨rfl, rfl, rfl, rfl, rfl, rfl, rfl, rfl⟩

/-- With `BUFPTR` inside the buffer the load port stores, and clears all of `FLAGS` (10_state.md R17). -/
theorem loadByte_of_lt {s : State} (h : s.bufptr.toNat < s.bufBytes) (b : Byte) :
    loadByte b s = { s with buf := s.buf.write s.bufptr.toNat b, bufptr := s.bufptr + 1, flags := 0 } := by
  rw [loadByte, if_pos h, ← clear_all_flags s.flags]
  rfl

/-- With `BUFPTR` outside the buffer the byte is discarded (10_state.md R17). -/
theorem loadByte_of_ge {s : State} (h : s.bufBytes ≤ s.bufptr.toNat) (b : Byte) : loadByte b s = s :=
  if_neg (by omega)

/-- What a write to a register other than `CMD` can do: set `ARG0` or `BUFPTR`, store a byte through the load port, or nothing
(10_state.md R11 to R21). -/
theorem writeRegister_cases {r : HostReg} (hr : r ≠ .cmd) (v : Nat) (s : State) :
    (∃ a p, writeRegister r v s = { s with arg0 := a, bufptr := p }) ∨
      (r = .bufdata ∧ s.bufptr.toNat < s.bufBytes ∧ writeRegister r v s =
        { s with buf := s.buf.write s.bufptr.toNat (BitVec.ofNat 8 v), bufptr := s.bufptr + 1, flags := 0 }) := by
  cases r with
  | cmd => exact absurd rfl hr
  | bufdata =>
    rcases Nat.lt_or_ge s.bufptr.toNat s.bufBytes with h | h
    · exact .inr ⟨rfl, h, loadByte_of_lt h _⟩
    · exact .inl ⟨s.arg0, s.bufptr, loadByte_of_ge h _⟩
  | _ => exact .inl ⟨_, _, rfl⟩

/-- A step keeps the flags, memories and structures, clears all of `FLAGS`, or runs a command. -/
theorem step_structures {s t : State} (h : step s = .next t) :
    KeepsStructures s t ∨ t.flags = 0 ∨ ∃ i u, KeepsStructures s u ∧ exec i u = .next t := by
  obtain ⟨-, rfl⟩ | ⟨rest, hstep⟩ := step_next h
  · exact .inl ⟨rfl, rfl, rfl, rfl, rfl, rfl, rfl, rfl⟩
  obtain ⟨v, i, -, -, -, hrun⟩ | ⟨v, x, -, -, -, rfl⟩ | ⟨r, v, -, hr, -, rfl⟩ | ⟨r, -, rfl⟩ | ⟨-, rfl⟩ := hstep
  · exact .inr (.inr ⟨i, { s with inputs := rest, cmd := BitVec.ofNat 32 v },
      ⟨rfl, rfl, rfl, rfl, rfl, rfl, rfl, rfl⟩, hrun⟩)
  · exact .inl ⟨rfl, rfl, rfl, rfl, rfl, rfl, rfl, rfl⟩
  · obtain ⟨a, p, hw⟩ | ⟨-, -, hw⟩ := writeRegister_cases hr v { s with inputs := rest }
    · rw [hw]
      exact .inl ⟨rfl, rfl, rfl, rfl, rfl, rfl, rfl, rfl⟩
    · rw [hw]
      exact .inr (.inl rfl)
  · exact .inl ⟨rfl, rfl, rfl, rfl, rfl, rfl, rfl, rfl⟩
  · exact .inr (.inl rfl)

theorem denseInv_of_invalid {s : State} (h : s.dvalid = false) : DenseInv s :=
  fun hd => by rw [h] at hd; cases hd

theorem sparseInv_of_invalid {s : State} (h : s.svalid = false) : SparseInv s :=
  fun hv => by rw [h] at hv; cases hv

/-! ## A valid `DV` stays the index of `BUF` (O50) -/

/-- A finished `DBUILD` body has made the context R23 to R26 describe over `BUF` (41_dense_index.md R95). -/
theorem denseInv_dbuildBody {s t : State} (h : dbuildBody s = .ok t) : DenseInv t := by
  obtain ⟨hlen, c, hc, rfl⟩ := dbuildBody_eq_ok h
  obtain rfl := denseBuild_eq_ok hlen hc
  exact fun _ => ⟨rfl, DenseOk_congr rfl (fun _ => rfl) (specContext_ok hlen)⟩

/-- `SBUILD` keeps `DVALID`, `DV` and `BUF`. -/
theorem denseInv_sbuildBody {s t : State} (ok : DenseInv s) (h : sbuildBody s = .ok t) : DenseInv t := by
  obtain ⟨frame, -, hdvalid, -⟩ := sbuildBody_frame h
  exact ok.congr hdvalid (congrArg State.dv frame :) (congrArg State.bufBytes frame :)
    (fun a => (congrArg (fun u : State => u.peek .buf a) frame :))

theorem denseInv_exec {i : Instr} {s t : State} (ok : DenseInv s) (h : exec i s = .next t) : DenseInv t := by
  have cleared : DenseInv (s.setSvalid false |>.setSdegen false) :=
    ok.congr (by simp) rfl rfl (by simp)
  obtain ⟨-, ⟨v, rfl⟩ | ⟨e, rfl⟩⟩ | ⟨-, ⟨u, hu, rfl⟩ | ⟨e, -, rfl⟩⟩ | ⟨-, ⟨u, hu, rfl⟩ | ⟨e, -, rfl⟩⟩ := exec_next h
  · exact (keepsStructures_finish v s).denseInv ok
  · exact (keepsStructures_raise e s).denseInv ok
  · exact (keepsStructures_finish 0 u).denseInv (denseInv_dbuildBody hu)
  · exact denseInv_of_invalid (by simp)
  · exact (keepsStructures_finish 0 u).denseInv (denseInv_sbuildBody cleared hu)
  · exact (keepsStructures_raise e _).denseInv cleared

/-- Settles O50: a build makes the index of the bytes of `BUF`, and a step that writes `BUF` clears `DVALID`. -/
theorem stepKeepsTheDenseIndexTrue : Obligations.StepKeepsTheDenseIndexTrue := by
  intro s t ok h
  obtain keeps | cleared | ⟨i, u, keeps, hrun⟩ := step_structures h
  · exact keeps.denseInv ok
  · exact denseInv_of_invalid (by rw [State.dvalid, cleared]; rfl)
  · exact denseInv_exec (keeps.denseInv ok) hrun

/-! ## The set positions (44_sparse.md R146) -/

section SetPositions
variable {s : State} {src : Source}

theorem ones_mono (s : State) (src : Source) {a b c : Nat} (hab : a ≤ b) (hbc : b ≤ c) :
    s.ones src a b ≤ s.ones src a c := by
  rw [← ones_add s src hab hbc]
  exact Nat.le_add_right _ _

/-- A set position adds one to the count from there on. -/
theorem ones_lt_of_bitAt {p c : Nat} (hp : s.bitAt src.memory p = true) (hpc : p < c) :
    s.ones src 0 p < s.ones src 0 c := by
  have hsucc := ones_succ s src (Nat.zero_le p)
  have hmono := ones_mono s src (Nat.zero_le (p + 1)) hpc
  simp only [hp, Bool.toNat_true] at hsucc
  omega

/-- A set position is determined by the ones before it. -/
theorem eq_of_ones_eq {p q : Nat} (hp : s.bitAt src.memory p = true) (hq : s.bitAt src.memory q = true)
    (h : s.ones src 0 p = s.ones src 0 q) : p = q := by
  rcases Nat.lt_trichotomy p q with hlt | heq | hgt
  · have := ones_lt_of_bitAt hp hlt
    omega
  · exact heq
  · have := ones_lt_of_bitAt hq hgt
    omega

theorem setPositions_succ (s : State) (src : Source) (n : Nat) :
    s.setPositions src (n + 1) = s.setPositions src n ++ if s.bitAt src.memory n then [n] else [] := by
  rw [State.setPositions, List.range_succ, List.filter_append]
  simp only [List.filter_cons, List.filter_nil, State.setPositions]

@[simp] theorem length_setPositions (s : State) (src : Source) (n : Nat) :
    (s.setPositions src n).length = s.ones src 0 n := by
  rw [State.setPositions, ← List.countP_eq_length_filter, List.range_eq_range', State.ones, Nat.sub_zero]

theorem mem_setPositions {n o : Nat} : o ∈ s.setPositions src n ↔ o < n ∧ s.bitAt src.memory o = true := by
  simp [State.setPositions]

/-- The `i`-th set position is set, and `i` ones stand before it. -/
theorem setPosition_spec {n i : Nat} (hi : i < s.ones src 0 n) :
    s.setPosition src n i < n ∧ s.bitAt src.memory (s.setPosition src n i) = true ∧
      s.ones src 0 (s.setPosition src n i) = i := by
  induction n with
  | zero => simp at hi
  | succ n ih =>
    rw [ones_succ s src (Nat.zero_le n)] at hi
    by_cases hin : i < s.ones src 0 n
    · have hsame : s.setPosition src (n + 1) i = s.setPosition src n i := by
        rw [State.setPosition, setPositions_succ, List.getElem?_append_left (by simpa using hin), State.setPosition]
      obtain ⟨hlt, hbit, hones⟩ := ih hin
      rw [hsame]
      exact ⟨by omega, hbit, hones⟩
    · have hbit : s.bitAt src.memory n = true := by
        cases hb : s.bitAt src.memory n with
        | true => rfl
        | false => simp [hb, hin] at hi
      obtain rfl : i = s.ones src 0 n := by
        simp only [hbit, Bool.toNat_true] at hi
        omega
      have hlast : s.setPosition src (n + 1) (s.ones src 0 n) = n := by
        rw [State.setPosition, setPositions_succ, List.getElem?_append_right (by simp)]
        simp [hbit]
      rw [hlast]
      exact ⟨by omega, hbit, rfl⟩

/-- A set position is the one whose number is the ones before it. -/
theorem setPosition_ones {n o : Nat} (ho : o < n) (hbit : s.bitAt src.memory o = true) :
    s.setPosition src n (s.ones src 0 o) = o := by
  obtain ⟨-, hbit', hones⟩ := setPosition_spec (ones_lt_of_bitAt hbit ho)
  exact eq_of_ones_eq hbit' hbit hones

/-- No set position lies past the last. -/
theorem le_lastSetPosition {n o : Nat} (ho : o < n) (hbit : s.bitAt src.memory o = true) :
    o ≤ s.setPosition src n (s.ones src 0 n - 1) := by
  have hcount := ones_lt_of_bitAt hbit ho
  obtain ⟨-, hlast, hones⟩ := setPosition_spec (s := s) (src := src) (n := n) (i := s.ones src 0 n - 1) (by omega)
  by_contra hlt
  have := ones_lt_of_bitAt hlast (by omega : s.setPosition src n (s.ones src 0 n - 1) < o)
  omega

end SetPositions

/-! ## The sizes of the sparse encoding (10_state.md R32, R35, 44_sparse.md R143) -/

/-- The degenerate form's condition: more than half the bits are set (R32). -/
theorem log2Floor_div_eq_zero {n w : Nat} (hw : 0 < w) : log2Floor (n / w) = 0 ↔ n < 2 * w := by
  rw [log2Floor, ← Nat.div_lt_iff_lt_mul hw]
  generalize n / w = x
  rcases Nat.eq_zero_or_pos x with rfl | hx
  · decide
  · have := Nat.log2_lt (n := x) (k := 1) (by omega)
    omega

/-- In the general form every element has at least `2 ^ lowLength` positions of the sequence to itself. -/
theorem weight_mul_two_pow_le {n w : Nat} (hl : log2Floor (n / w) ≠ 0) :
    w * 2 ^ log2Floor (n / w) ≤ n := by
  have hquot : n / w ≠ 0 := fun h => hl (by rw [h]; rfl)
  have hpow : 2 ^ log2Floor (n / w) ≤ n / w := Nat.log2_self_le hquot
  calc w * 2 ^ log2Floor (n / w) ≤ w * (n / w) := Nat.mul_le_mul_left w hpow
    _ ≤ n := Nat.mul_div_le n w

/-- The high bitmap of the general form is no longer than the sequence (R35). -/
theorem highBits_le {n w last : Nat} (hl : log2Floor (n / w) ≠ 0) (hlast : last < n) :
    w + (last >>> log2Floor (n / w)) ≤ n := by
  have hwl := weight_mul_two_pow_le hl
  generalize log2Floor (n / w) = l at *
  obtain ⟨k, rfl⟩ := Nat.exists_eq_succ_of_ne_zero hl
  have hhigh : (last >>> (k + 1)) * 2 ^ (k + 1) ≤ last := by
    rw [Nat.shiftRight_eq_div_pow]
    exact Nat.div_mul_le_self _ _
  have hdouble : 2 * (w + last >>> (k + 1)) ≤ (w + last >>> (k + 1)) * 2 ^ (k + 1) := by
    rw [Nat.mul_comm]
    exact Nat.mul_le_mul_left _ (by rw [Nat.pow_succ]; have := Nat.one_le_two_pow (n := k); omega)
  rw [Nat.add_mul] at hdouble
  simp only [Nat.succ_eq_add_one] at *
  omega

/-- The low codes of the general form take at most half as many bits as the sequence (R35). -/
theorem lowBits_le {n w : Nat} (hl : log2Floor (n / w) ≠ 0) : w * log2Floor (n / w) ≤ n / 2 := by
  have hwl := weight_mul_two_pow_le hl
  generalize log2Floor (n / w) = l at *
  obtain ⟨k, rfl⟩ := Nat.exists_eq_succ_of_ne_zero hl
  have hk : w * (k + 1) ≤ w * 2 ^ k := Nat.mul_le_mul_left w Nat.lt_two_pow_self
  rw [Nat.pow_succ, ← Nat.mul_assoc] at hwl
  simp only [Nat.succ_eq_add_one] at *
  omega

/-! ## Pass 1 (44_sparse.md R142) -/

/-- What pass 1 has established before position `i`: the count, and the set position seen last. -/
structure PassOneOk (s : State) (i : Nat) (v : PassOneVars) : Prop where
  weight_eq : v.weight = s.ones .buf 0 i
  last_lt : v.weight ≠ 0 → v.lastSetPos < i
  last_set : v.weight ≠ 0 → s.bitAt .buf v.lastSetPos = true
  ones_last : v.weight ≠ 0 → s.ones .buf 0 v.lastSetPos + 1 = v.weight

/-- What pass 1 answers for the `n` bits of a sequence that has a set one. -/
structure PassOneDone (s : State) (n : Nat) (p : PassOneVars) : Prop where
  length_le : n ≤ s.maxLen
  weight_ne_zero : p.weight ≠ 0
  weight_eq : p.weight = s.ones .buf 0 n
  lastSetPos_eq : p.lastSetPos = s.setPosition .buf n (p.weight - 1)

/-- Pass 1 answers for every length the buffer can hold (R142). -/
theorem sparsePassOne_answers {s : State} {n : Nat} (hn : n ≤ s.maxLen) :
    ∃ p, sparsePassOne n s = .ok p ∧ p.weight = s.ones .buf 0 n ∧ (p.weight ≠ 0 → PassOneDone s n p) := by
  have loop : ∃ p, sparsePassOne n s = .ok p ∧ PassOneOk s (0 + n) p := by
    refine forUp_answers (PassOneOk s) ⟨by simp, by simp, by simp, by simp⟩ ?_
    rintro i v - hi ⟨hweight, hlt, hset, hones⟩
    have hsucc := ones_succ s .buf (Nat.zero_le i)
    rw [readBit_of_lt (by simp only [State.maxLen] at hn; omega), ok_bind]
    cases hb : s.bitAt .buf i with
    | true =>
      simp only [Source.memory, hb, Bool.toNat_true, ← hweight] at hsucc
      have hcount : s.ones .buf 0 i + 1 = v.weight + 1 := by rw [hweight]
      exact ⟨_, rfl, hsucc.symm, fun _ => Nat.lt_succ_self i, fun _ => hb, fun _ => hcount⟩
    | false =>
      simp only [Source.memory, hb, Bool.toNat_false, Nat.add_zero, ← hweight] at hsucc
      exact ⟨_, rfl, hsucc.symm, fun h => Nat.lt_succ_of_lt (hlt h), hset, hones⟩
  obtain ⟨p, hp, hweight, hlt, hset, hones⟩ := loop
  rw [Nat.zero_add] at hweight hlt
  refine ⟨p, hp, hweight, fun h => ⟨hn, h, hweight, ?_⟩⟩
  rw [← hones h, Nat.add_sub_cancel, setPosition_ones (src := .buf) (hlt h) (hset h)]

section PassOneDone
variable {s : State} {n : Nat} {p : PassOneVars} (done : PassOneDone s n p)
include done

theorem PassOneDone.lastSetPos_lt : p.lastSetPos < n := by
  have hpos := done.weight_ne_zero
  have hweight := done.weight_eq
  rw [done.lastSetPos_eq]
  exact (setPosition_spec (by omega)).1

/-- In the general form the low codes fit `LOW` (10_state.md R35). -/
theorem PassOneDone.codes_le (hl : log2Floor (n / p.weight) ≠ 0) :
    p.weight * log2Floor (n / p.weight) ≤ s.maxLen :=
  Nat.le_trans (Nat.le_trans (lowBits_le hl) (Nat.div_le_self n 2)) done.length_le

/-- In the general form the high bitmap fits `HBUF` (10_state.md R35). -/
theorem PassOneDone.bitmap_le (hl : log2Floor (n / p.weight) ≠ 0) :
    p.weight + (p.lastSetPos >>> log2Floor (n / p.weight)) ≤ s.maxLen :=
  Nat.le_trans (highBits_le hl done.lastSetPos_lt) done.length_le

end PassOneDone

/-! ## What the packer writes (43_bit_field.md R132, R134, R135) -/

/-- The clears set the bytes that hold their bits to 0, and no other (R135). -/
theorem clearBits_answers {s : State} {m : ByteMemory} {nbits : Nat} (h : nbits ≤ s.maxLen) :
    ∃ t, clearBits m nbits s = .ok t ∧ t.bufBytes = s.bufBytes ∧
      ∀ k a, t.peek k a = if k = m ∧ a < (nbits + 7) / 8 then 0 else s.peek k a := by
  have hbytes : (nbits + 7) / 8 ≤ s.bufBytes := by
    simp only [State.maxLen] at h
    omega
  obtain ⟨t, ht, hcap, hpeek⟩ := forUp_answers (body := fun b t => writeByte m b 0 t) (a := 0) (n := (nbits + 7) / 8)
    (acc := s)
    (fun i t => t.bufBytes = s.bufBytes ∧ ∀ k a, t.peek k a = if k = m ∧ a < i then 0 else s.peek k a)
    ⟨rfl, by simp⟩ (by
      rintro i t - hi ⟨hcap, hpeek⟩
      refine ⟨_, writeByte_of_lt (by omega), by simpa using hcap, fun k a => ?_⟩
      rw [peek_setMemory_write, hpeek]
      by_cases hk : k = m
      · rcases Nat.lt_trichotomy a i with hlt | rfl | hgt
        · rw [if_neg (by omega), if_pos ⟨hk, hlt⟩, if_pos ⟨hk, by omega⟩]
        · rw [if_pos ⟨hk, rfl⟩, if_pos ⟨hk, by omega⟩]
        · rw [if_neg (by omega), if_neg (by omega), if_neg (by omega)]
      · simp [hk])
  rw [Nat.zero_add] at hpeek
  exact ⟨t, ht, hcap, hpeek⟩

/-- The bits after a clear. -/
theorem bitAt_of_cleared {s t : State} {m : ByteMemory} {n : Nat}
    (h : ∀ k a, t.peek k a = if k = m ∧ a < n then 0 else s.peek k a) (k : ByteMemory) (o : Nat) :
    t.bitAt k o = true ↔ s.bitAt k o = true ∧ ¬ (k = m ∧ o < 8 * n) := by
  rw [State.bitAt, h, State.bitAt]
  have hbyte : o / 8 < n ↔ o < 8 * n := by omega
  by_cases hc : k = m ∧ o / 8 < n
  · rw [if_pos hc, ← hbyte]
    simp [hc]
  · rw [if_neg hc, ← hbyte]
    simp [hc]

/-- `LowPut` sets the bits of the value's 1 bits in code `r`, and no other (R132). -/
theorem lowPut_answers {s : State} {l r : Nat} (value : Nat) (h : r * l + l ≤ s.maxLen) :
    ∃ u, lowPut l r value s = .ok u ∧ u.bufBytes = s.bufBytes ∧ ∀ k o, u.bitAt k o = true ↔
      s.bitAt k o = true ∨ (k = .low ∧ ∃ t, t < l ∧ o = r * l + t ∧ value.testBit t = true) := by
  obtain ⟨u, hu, hcap, hbits⟩ := forUp_answers
    (body := fun t s' => if value.testBit t then setBit .low (r * l + t) s' else .ok s') (a := 0) (n := l) (acc := s)
    (fun i u => u.bufBytes = s.bufBytes ∧ ∀ k o, u.bitAt k o = true ↔
      s.bitAt k o = true ∨ (k = .low ∧ ∃ t, t < i ∧ o = r * l + t ∧ value.testBit t = true))
    ⟨rfl, by simp⟩ (by
      rintro i u - hi ⟨hcap, hbits⟩
      simp only [Nat.exists_lt_succ_right]
      cases hv : value.testBit i with
      | true =>
        obtain ⟨x, hx, -, hset⟩ := setBit_of_lt (m := .low) (o := r * l + i) (s := u)
          (by simp only [State.maxLen] at h; omega)
        refine ⟨_, by simpa using hx, by simpa using hcap, fun k o => ?_⟩
        simp only [hset, Bool.or_eq_true, hbits, decide_eq_true_iff, and_true, and_or_left, or_assoc]
      | false => exact ⟨u, by simp, hcap, by simpa using hbits⟩)
  rw [Nat.zero_add] at hbits
  exact ⟨u, hu, hcap, hbits⟩

/-- `HighEmit` sets the bit past the gap, and no other (R134). -/
theorem highEmit_answers {s : State} {offset gap : Nat} (h : offset + gap < s.maxLen) :
    ∃ t, highEmit offset gap s = .ok (t, offset + gap + 1) ∧ t.bufBytes = s.bufBytes ∧
      ∀ k o, t.bitAt k o = true ↔ s.bitAt k o = true ∨ (k = .hbuf ∧ o = offset + gap) := by
  obtain ⟨x, hx, -, hset⟩ := setBit_of_lt (m := .hbuf) h
  refine ⟨_, by rw [highEmit, hx, ok_bind], by simp, fun k o => ?_⟩
  rw [hset, Bool.or_eq_true, decide_eq_true_iff]

/-! ## Pass 2 (44_sparse.md R145) -/

/-- The bits that pass 2 has to set for the first `r` elements of the sequence: the high bitmap's 1 bits in `HBUF` and the codes'
1 bits in `LOW` (R146). -/
def Encoded (s : State) (n l r : Nat) : ByteMemory → Nat → Prop
  | .buf, _ => False
  | .hbuf, o => ∃ i, i < r ∧ o = (s.setPosition .buf n i >>> l) + i
  | .low, o => ∃ i, i < r ∧ ∃ t, t < l ∧ o = i * l + t ∧ (s.setPosition .buf n i).testBit t = true

theorem encoded_succ (s : State) (n l r : Nat) (k : ByteMemory) (o : Nat) :
    Encoded s n l (r + 1) k o ↔ Encoded s n l r k o ∨
      (k = .low ∧ ∃ t, t < l ∧ o = r * l + t ∧ (s.setPosition .buf n r).testBit t = true) ∨
      (k = .hbuf ∧ o = (s.setPosition .buf n r >>> l) + r) := by
  cases k with
  | buf => simp [Encoded]
  | hbuf => simp only [Encoded, Nat.exists_lt_succ_right, reduceCtorEq, false_and, false_or, true_and]
  | low => simp only [Encoded, Nat.exists_lt_succ_right, reduceCtorEq, false_and, or_false, true_and]

/-- What pass 2's loop has established before position `i`, from the cleared state `s`. -/
structure PassTwoOk (s : State) (n l i : Nat) (v : PassTwoVars) : Prop where
  r_eq : v.r = s.ones .buf 0 i
  offset_eq : v.offset = v.r + v.prevHighValue
  prevHighValue_le : v.prevHighValue ≤ i >>> l
  bufBytes_eq : v.state.bufBytes = s.bufBytes
  bits : ∀ k o, v.state.bitAt k o = true ↔ s.bitAt k o = true ∨ Encoded s n l v.r k o

section PassTwo
variable {s : State} {n l : Nat}

/-- One position of pass 2: a set one is the next element, and its code and high bit are written. -/
theorem sparsePassTwoBit_answers {i : Nat} {v : PassTwoVars} (hn : n ≤ s.maxLen) (hi : i < n)
    (hlow : s.ones .buf 0 n * l ≤ s.maxLen)
    (hhigh : s.ones .buf 0 n + (s.setPosition .buf n (s.ones .buf 0 n - 1) >>> l) ≤ s.maxLen)
    (ok : PassTwoOk s n l i v) :
    ∃ w, sparsePassTwoBit l (2 ^ l - 1) i v = .ok w ∧ PassTwoOk s n l (i + 1) w := by
  obtain ⟨hr, hoffset, hprev, hcap, hbits⟩ := ok
  have hmax : v.state.maxLen = s.maxLen := by rw [State.maxLen, hcap, State.maxLen]
  have hbuf : v.state.bitAt .buf i = s.bitAt .buf i := by
    rw [Bool.eq_iff_iff, hbits, Encoded, or_false]
  have hmono : i >>> l ≤ (i + 1) >>> l := by
    simp only [Nat.shiftRight_eq_div_pow]
    exact Nat.div_le_div_right (Nat.le_succ i)
  have hsucc := ones_succ s .buf (Nat.zero_le i)
  rw [sparsePassTwoBit, readBit_of_lt (by simp only [State.maxLen] at hn; omega), ok_bind, hbuf]
  cases hb : s.bitAt .buf i with
  | false =>
    simp only [Source.memory, hb, Bool.toNat_false, Nat.add_zero] at hsucc
    exact ⟨v, rfl, by rw [hsucc, hr], hoffset, Nat.le_trans hprev hmono, hcap, hbits⟩
  | true =>
    simp only [Source.memory, hb, Bool.toNat_true] at hsucc
    have hpos : s.setPosition .buf n v.r = i := by rw [hr]; exact setPosition_ones hi hb
    have hcount : v.r < s.ones .buf 0 n := by rw [hr]; exact ones_lt_of_bitAt hb hi
    have hlast : i >>> l ≤ s.setPosition .buf n (s.ones .buf 0 n - 1) >>> l := by
      simp only [Nat.shiftRight_eq_div_pow]
      exact Nat.div_le_div_right (le_lastSetPosition hi hb)
    have hcode : v.r * l + l ≤ s.maxLen := by
      rw [← Nat.succ_mul]
      exact Nat.le_trans (Nat.mul_le_mul_right l hcount) hlow
    obtain ⟨t, ht, htcap, htbits⟩ := lowPut_answers (s := v.state) (i &&& (2 ^ l - 1)) (by rw [hmax]; exact hcode)
    have hat : v.offset + (i >>> l - v.prevHighValue) = (i >>> l) + v.r := by omega
    obtain ⟨t', ht', ht'cap, ht'bits⟩ := highEmit_answers (s := t) (offset := v.offset)
      (gap := i >>> l - v.prevHighValue) (by rw [State.maxLen, htcap, ← State.maxLen, hmax, hat]; omega)
    simp only [if_true, ht, ok_bind, ht']
    refine ⟨_, rfl, by rw [hsucc, hr], by simp only; omega, hmono, by rw [ht'cap, htcap, hcap], fun k o => ?_⟩
    have hmask : (∃ t, t < l ∧ o = v.r * l + t ∧ (i &&& (2 ^ l - 1)).testBit t = true) ↔
        ∃ t, t < l ∧ o = v.r * l + t ∧ i.testBit t = true := by
      refine exists_congr fun t => and_congr_right fun htl => and_congr_right fun _ => ?_
      simp [htl]
    rw [ht'bits, htbits, hbits, encoded_succ, hpos, hat, hmask, or_assoc, or_assoc]

/-- Pass 2 answers where the codes and the bitmap fit their memories. It clears the bytes of both, and sets there the bits of
the encoding (R145, R146). -/
theorem sparsePassTwo_answers {p : PassOneVars} (done : PassOneDone s n p) (hcodes : p.weight * l ≤ s.maxLen)
    (hbitmap : p.weight + (p.lastSetPos >>> l) ≤ s.maxLen) :
    ∃ t, sparsePassTwo n p.weight l (2 ^ l - 1) (p.weight + (p.lastSetPos >>> l)) s = .ok t ∧
      (∀ o, t.bitAt .low o = true ↔
        (s.bitAt .low o = true ∧ ¬ o < 8 * ((p.weight * l + 7) / 8)) ∨ Encoded s n l p.weight .low o) ∧
      ∀ o, t.bitAt .hbuf o = true ↔
        (s.bitAt .hbuf o = true ∧ ¬ o < 8 * ((p.weight + (p.lastSetPos >>> l) + 7) / 8)) ∨
          Encoded s n l p.weight .hbuf o := by
  obtain ⟨hn, -, hweight, hlast⟩ := done
  obtain ⟨s1, h1, hcap1, hpeek1⟩ := clearBits_answers (m := .low) hcodes
  obtain ⟨s2, h2, hcap2, hpeek2⟩ := clearBits_answers (s := s1) (m := .hbuf) (nbits := p.weight + (p.lastSetPos >>> l))
    (by rw [State.maxLen, hcap1]; exact hbitmap)
  have hmax : s2.maxLen = s.maxLen := by rw [State.maxLen, hcap2, hcap1, State.maxLen]
  have hbuf (a : Nat) : s2.peek .buf a = s.peek .buf a := by simp [hpeek2, hpeek1]
  have hpos : s2.setPosition .buf n = s.setPosition .buf n := funext (setPosition_congr hbuf n)
  have hones : s2.ones .buf 0 n = p.weight := by rw [hweight, ones_congr (src := .buf) hbuf]
  obtain ⟨v, hv, hvok⟩ := forUp_answers (body := sparsePassTwoBit l (2 ^ l - 1)) (a := 0) (n := n)
    (acc := { state := s2, r := 0, prevHighValue := 0, offset := 0 }) (PassTwoOk s2 n l)
    ⟨by simp, rfl, Nat.zero_le _, rfl, fun k o => by cases k <;> simp [Encoded]⟩
    (fun i v _ hi ok => sparsePassTwoBit_answers (by rw [hmax]; exact hn) (by omega)
      (by rw [hones, hmax]; exact hcodes) (by rw [hones, hmax, hpos, ← hlast]; exact hbitmap) ok)
  rw [Nat.zero_add] at hvok
  have hr : v.r = p.weight := by rw [hvok.r_eq, hones]
  refine ⟨v.state, by rw [sparsePassTwo, lowClear, h1, ok_bind, highClear, h2, ok_bind, hv, ok_bind], ?_, ?_⟩
  · intro o
    rw [hvok.bits, bitAt_of_cleared hpeek2, bitAt_of_cleared hpeek1, hr]
    simp [Encoded, hpos]
  · intro o
    rw [hvok.bits, bitAt_of_cleared hpeek2, bitAt_of_cleared hpeek1, hr]
    simp [Encoded, hpos]

end PassTwo

/-! ## A valid `SV` stays the encoding of `BUF` (O51) -/

/-- In `LOW`, bit `t` of code `i` is bit `t` of the `i`-th set position (44_sparse.md R146). -/
theorem encoded_low {s : State} {n l r i t : Nat} (hi : i < r) (ht : t < l) :
    Encoded s n l r .low (i * l + t) ↔ (s.setPosition .buf n i).testBit t = true := by
  constructor
  · rintro ⟨j, -, u, hu, heq, hbit⟩
    have hij : i = j := by
      have := congrArg (· / l) heq
      simpa [Nat.add_div_of_dvd_right, Nat.mul_div_cancel _ (Nat.zero_lt_of_lt ht), Nat.div_eq_of_lt, ht, hu]
        using this
    subst hij
    obtain rfl : t = u := by omega
    exact hbit
  · exact fun hbit => ⟨i, hi, t, ht, rfl, hbit⟩

/-- What the two forms of a structure with the parameters of R143 add to them: the inner context, and in the general form the
bits of `HBUF` and `LOW`, here in state `t`; `s` is the state pass 1 has read (10_state.md R31, R32, 44_sparse.md R146). -/
def FormOk (s t : State) (n : Nat) (p : PassOneVars) (inner : DenseContext) : Bool → Prop
  | true => inner.src = .buf ∧ inner.length = n
  | false =>
    (inner.src = .hbuf ∧ inner.length = p.weight + (p.lastSetPos >>> log2Floor (n / p.weight))) ∧
    (∀ o, o < inner.length →
      (t.bitAt .hbuf o = true ↔ Encoded s n (log2Floor (n / p.weight)) p.weight .hbuf o)) ∧
    ∀ i, i < p.weight → ∀ k, k < log2Floor (n / p.weight) →
      (t.bitAt .low (i * log2Floor (n / p.weight) + k) = true ↔ (s.setPosition .buf n i).testBit k = true)

/-- What is left to show of a structure with the parameters of R143, in a state with the bytes of `BUF` that pass 1 has read. -/
theorem sparseOk_of_formOk {s t : State} {n : Nat} {p : PassOneVars} {degenerate : Bool} {inner : DenseContext}
    (done : PassOneDone s n p) (hcap : t.bufBytes = s.bufBytes) (hbuf : ∀ a, t.peek .buf a = s.peek .buf a)
    (hsv : t.sv = sparseParameters n p degenerate inner) (hsdegen : t.sdegen = degenerate)
    (hdeg : degenerate = decide (log2Floor (n / p.weight) = 0)) (hinner : DenseOk t inner)
    (hform : FormOk s t n p inner degenerate) : SparseOk t := by
  have hset (i : Nat) : t.setPosition .buf n i = s.setPosition .buf n i := setPosition_congr hbuf n i
  constructor
  case length_le => rw [hsv, State.maxLen, hcap]; exact done.length_le
  case weight_pos => rw [hsv]; exact Nat.pos_of_ne_zero done.weight_ne_zero
  case weight_eq => rw [hsv]; exact done.weight_eq.trans (ones_congr (src := .buf) hbuf 0 n).symm
  case lastSetPos_eq => rw [hsv]; exact done.lastSetPos_eq.trans (hset _).symm
  case lowLength_eq => rw [hsv]; rfl
  case highLength_eq => rw [hsv]; rfl
  case lowMask_eq => rw [hsv]; rfl
  case degenerate_eq => rw [hsv]; exact hdeg
  case sdegen_eq => rw [hsv]; exact hsdegen
  case inner_ok => rw [hsv]; exact hinner
  case degenerate_inner =>
    rw [hsv]
    rintro rfl
    exact hform
  case general_inner =>
    rw [hsv]
    rintro rfl
    exact hform.1
  case high_bits =>
    rw [hsv]
    rintro rfl o ho
    obtain ⟨-, hhigh, -⟩ := hform
    rw [Bool.eq_iff_iff, decide_eq_true_iff, hhigh o ho]
    simp only [Encoded, sparseParameters, hset]
  case low_bits =>
    rw [hsv]
    rintro rfl i hi k hk
    obtain ⟨-, -, hlow⟩ := hform
    rw [Bool.eq_iff_iff]
    exact (hlow i hi k hk).trans (by rw [← hset]; rfl)

/-- Pass 2 leaves the general form's bits in `HBUF` and `LOW` (44_sparse.md R145, R146). -/
theorem formOk_sparsePassTwo {s u : State} {n l : Nat} {p : PassOneVars} (done : PassOneDone s n p)
    (hl : log2Floor (n / p.weight) = l) (hne : l ≠ 0)
    (hu : sparsePassTwo n p.weight l (2 ^ l - 1) (p.weight + (p.lastSetPos >>> l)) s = .ok u) :
    FormOk s u n p (specContext u .hbuf (p.weight + (p.lastSetPos >>> l))) false := by
  subst hl
  obtain ⟨u', hu', hlow, hhigh⟩ := sparsePassTwo_answers done (done.codes_le hne) (done.bitmap_le hne)
  obtain rfl : u' = u := Except.ok.inj (hu'.symm.trans hu)
  refine ⟨⟨rfl, rfl⟩, fun o ho => ?_, fun i hi k hk => ?_⟩
  · replace ho : o < p.weight + (p.lastSetPos >>> log2Floor (n / p.weight)) := ho
    rw [hhigh, or_iff_right (fun hstale => hstale.2 (by omega))]
  · have hcode : i * log2Floor (n / p.weight) + log2Floor (n / p.weight) ≤ p.weight * log2Floor (n / p.weight) := by
      rw [← Nat.succ_mul]
      exact Nat.mul_le_mul_right _ hi
    rw [hlow, or_iff_right (fun hstale => hstale.2 (by omega)), encoded_low hi hk]

/-- A finished `SBUILD` body has made the encoding R29 to R33 describe of the bytes of `BUF` (44_sparse.md R140). -/
theorem sparseOk_sbuildBody {s t : State} (hclear : s.sdegen = false) (h : sbuildBody s = .ok t) : SparseOk t := by
  obtain ⟨hn, p, hp, hpos, hform⟩ := sbuildBody_eq_ok h
  obtain ⟨p', hp', -, hdone⟩ := sparsePassOne_answers hn
  obtain rfl : p' = p := Except.ok.inj (hp'.symm.trans hp)
  have done := hdone hpos
  obtain ⟨hl, c, hc, rfl⟩ | ⟨hl, u, c, hu, hc, rfl⟩ := hform
  · obtain rfl := denseBuild_eq_ok hn hc
    exact sparseOk_of_formOk (degenerate := true) done rfl (fun _ => rfl) rfl (by simp) (by simp [hl])
      (DenseOk_congr rfl (fun _ => rfl) (specContext_ok hn)) ⟨rfl, rfl⟩
  · have frame := sparsePassTwo_frame hu
    have hcap : u.bufBytes = s.bufBytes := (congrArg State.bufBytes frame :)
    have hgeneral : u.sdegen = false := (congrArg State.sdegen frame :).trans hclear
    have hmax := done.bitmap_le hl
    rw [State.maxLen, ← hcap] at hmax
    obtain rfl := denseBuild_eq_ok hmax hc
    have form := formOk_sparsePassTwo done rfl hl hu
    exact sparseOk_of_formOk (degenerate := false) done hcap
      (fun a => (congrArg (fun v : State => v.peek .buf a) frame :)) rfl ((sdegen_setSvalid _ _).trans hgeneral)
      (by simp [hl]) (DenseOk_congr rfl (fun _ => rfl) (specContext_ok hmax)) form

/-- `SparseInv` depends on `SVALID`, `SDEGEN`, `SV`, the capacity and the bytes of the memories. -/
theorem SparseInv.congr {s t : State} (ok : SparseInv s) (hs : t.svalid = s.svalid) (hg : t.sdegen = s.sdegen)
    (hv : t.sv = s.sv) (hc : t.bufBytes = s.bufBytes) (h : ∀ m a, t.peek m a = s.peek m a) : SparseInv t :=
  fun hvalid => SparseOk_congr hc hv hg h (ok (hs ▸ hvalid))

/-- `DBUILD` keeps `SVALID`, `SDEGEN`, `SV` and the memories. -/
theorem sparseInv_dbuildBody {s t : State} (ok : SparseInv s) (h : dbuildBody s = .ok t) : SparseInv t := by
  obtain ⟨-, c, -, rfl⟩ := dbuildBody_eq_ok h
  exact ok.congr (svalid_setDvalid _ _) (sdegen_setDvalid _ _) rfl rfl (setDvalid_peek _ _)

theorem sparseInv_exec {i : Instr} {s t : State} (ok : SparseInv s) (h : exec i s = .next t) : SparseInv t := by
  have cleared : SparseInv (s.setDvalid false) := ok.congr (by simp) (by simp) rfl rfl (by simp)
  obtain ⟨-, ⟨v, rfl⟩ | ⟨e, rfl⟩⟩ | ⟨-, ⟨u, hu, rfl⟩ | ⟨e, -, rfl⟩⟩ | ⟨-, ⟨u, hu, rfl⟩ | ⟨e, -, rfl⟩⟩ := exec_next h
  · exact (keepsStructures_finish v s).sparseInv ok
  · exact (keepsStructures_raise e s).sparseInv ok
  · exact (keepsStructures_finish 0 u).sparseInv (sparseInv_dbuildBody cleared hu)
  · exact (keepsStructures_raise e _).sparseInv cleared
  · exact (keepsStructures_finish 0 u).sparseInv fun _ => sparseOk_sbuildBody (by simp) hu
  · exact sparseInv_of_invalid (by simp)

/-- Settles O51: a build encodes the set positions of the bytes of `BUF`, and a step that writes `BUF` clears `SVALID`. -/
theorem stepKeepsTheSparseStructureTrue : Obligations.StepKeepsTheSparseStructureTrue := by
  intro s t ok h
  obtain keeps | cleared | ⟨i, u, keeps, hrun⟩ := step_structures h
  · exact keeps.sparseInv ok
  · exact sparseInv_of_invalid (by rw [State.svalid, cleared]; rfl)
  · exact sparseInv_exec (keeps.sparseInv ok) hrun

/-! ## The entries of a built index (10_state.md R24, R25, R27; O19, O20) -/

section DenseOk
variable {s : State} {c : DenseContext}

theorem DenseOk.large_getElem? (ok : DenseOk s c) {k : Nat} (hk : k ≤ c.length / 65536) :
    c.large[k]? = some (s.ones c.src 0 (65536 * k)) :=
  ok.large_eq k (by rw [ok.nlarge_eq]; omega)

theorem DenseOk.small_getElem? (ok : DenseOk s c) {j : Nat} (hj : j ≤ c.length / 128) :
    c.small[j]? = some (s.ones c.src (65536 * (j / 512)) (128 * j)) :=
  ok.small_eq j (by rw [ok.nsmall_eq]; omega)

theorem DenseOk.entry_large (ok : DenseOk s c) {k : Nat} (hk : k ≤ c.length / 65536) :
    entry c.large k = .ok (s.ones c.src 0 (65536 * k)) :=
  entry_eq_ok.2 (ok.large_getElem? hk)

theorem DenseOk.entry_small (ok : DenseOk s c) {j : Nat} (hj : j ≤ c.length / 128) :
    entry c.small j = .ok (s.ones c.src (65536 * (j / 512)) (128 * j)) :=
  entry_eq_ok.2 (ok.small_getElem? hj)

/-- Every position of a built context is in its memory. -/
theorem DenseOk.length_le_bits (ok : DenseOk s c) : c.length ≤ 8 * s.bufBytes := ok.length_le

end DenseOk

/-- A range of `Ones` that ends `n` positions later counts at most `n` more. -/
theorem ones_le_ones_add (s : State) (src : Source) {a b : Nat} (hab : a ≤ b) (n : Nat) :
    s.ones src a b ≤ s.ones src a (b + n) ∧ s.ones src a (b + n) ≤ s.ones src a b + n := by
  have hsum := ones_add s src hab (Nat.le_add_right b n)
  have hle := ones_le s src b (b + n)
  omega

/-- Settles O19: neighbouring entries are counts of ranges that differ by one block. -/
theorem indexEntriesGrowByAtMostABlock : Obligations.IndexEntriesGrowByAtMostABlock := by
  intro s c ok
  have hnlarge := ok.nlarge_eq
  have hnsmall := ok.nsmall_eq
  refine ⟨fun k hk => ?_, fun j hj hblock => ?_, ?_⟩
  · obtain ⟨hle, hgrow⟩ := ones_le_ones_add s c.src (Nat.zero_le (65536 * k)) 65536
    exact ⟨_, _, ok.large_eq k (by omega), ok.large_eq (k + 1) hk, hle, hgrow⟩
  · obtain ⟨hle, hgrow⟩ := ones_le_ones_add s c.src (show 65536 * (j / 512) ≤ 128 * j by omega) 128
    have hsame : (j + 1) / 512 = j / 512 := by omega
    exact ⟨_, _, ok.small_eq j (by omega), ok.small_eq (j + 1) hj, by rw [hsame]; exact hle, by rw [hsame]; exact hgrow⟩
  · refine ⟨_, _, ok.large_eq (c.nlarge - 1) (by omega), ok.small_eq (c.nsmall - 1) (by omega), ?_⟩
    rw [show 65536 * (c.nlarge - 1) = 65536 * ((c.nsmall - 1) / 512) by omega, ones_add s c.src (by omega) (by omega),
      ones_add s c.src (by omega) (by omega), ok.rank1Max_eq]

/-- Settles O20: an entry of `small[]` counts at most the 511 small blocks before it in its large block, and an entry of
`large[]` at most the positions before it. -/
theorem indexEntriesFitTheirMemories : Obligations.IndexEntriesFitTheirMemories := by
  intro s c ok
  constructor
  · intro x hx
    obtain ⟨j, hj, rfl⟩ := List.mem_iff_getElem.1 hx
    have hentry := ok.small_eq j (by rw [← ok.small_length]; exact hj)
    rw [List.getElem?_eq_getElem hj, Option.some.injEq] at hentry
    have hle := ones_le s c.src (65536 * (j / 512)) (128 * j)
    omega
  · intro x hx
    obtain ⟨k, hk, rfl⟩ := List.mem_iff_getElem.1 hx
    have hentry := ok.large_eq k (by rw [← ok.large_length]; exact hk)
    rw [List.getElem?_eq_getElem hk, Option.some.injEq] at hentry
    have hle := ones_le s c.src 0 (65536 * k)
    have hlarge := ok.large_length
    have hnlarge := ok.nlarge_eq
    omega

/-! ## The sizes of a built sparse structure (10_state.md R32, R35; O36, O37) -/

/-- Settles O36: the low codes have no bits exactly when each element has fewer than two positions to itself. -/
theorem degenerateExactlyAboveHalfDensity : Obligations.DegenerateExactlyAboveHalfDensity := by
  intro s ok
  rw [ok.degenerate_eq, decide_eq_true_iff, ok.lowLength_eq, log2Floor_div_eq_zero ok.weight_pos]

section SparseOk
variable {s : State} (ok : SparseOk s) (hgen : s.sv.degenerate = false)
include ok

/-- The `i`-th set position of the sequence, for an element's number `i`. -/
theorem SparseOk.setPosition_spec {i : Nat} (hi : i < s.sv.weight) :
    s.setPosition .buf s.sv.length i < s.sv.length ∧ s.bitAt .buf (s.setPosition .buf s.sv.length i) = true ∧
      s.ones .buf 0 (s.setPosition .buf s.sv.length i) = i :=
  Machine.setPosition_spec (src := .buf) (by rwa [← ok.weight_eq])

theorem SparseOk.lastSetPos_lt : s.sv.lastSetPos < s.sv.length := by
  rw [ok.lastSetPos_eq]
  exact (ok.setPosition_spec (Nat.sub_lt ok.weight_pos Nat.one_pos)).1

include hgen

theorem SparseOk.log2Floor_ne_zero : log2Floor (s.sv.length / s.sv.weight) ≠ 0 := by
  have := ok.degenerate_eq
  rw [hgen, ok.lowLength_eq] at this
  exact of_decide_eq_false this.symm

/-- The high bitmap is no longer than the sequence (R35). -/
theorem SparseOk.inner_length_le : s.sv.inner.length ≤ s.sv.length := by
  rw [(ok.general_inner hgen).2, ok.lowLength_eq]
  exact highBits_le (ok.log2Floor_ne_zero hgen) ok.lastSetPos_lt

/-- The low codes take at most half as many bits as the sequence (R35). -/
theorem SparseOk.lowBits_le : s.sv.weight * s.sv.lowLength ≤ s.sv.length / 2 := by
  rw [ok.lowLength_eq]
  exact Machine.lowBits_le (ok.log2Floor_ne_zero hgen)

end SparseOk

/-- Settles O37: an element has at least `2 ^ lowLength` positions of the sequence to itself. -/
theorem sparseEncodingFitsItsMemories : Obligations.SparseEncodingFitsItsMemories :=
  fun _ ok hgen => ⟨ok.inner_length_le hgen, ok.lowBits_le hgen⟩

/-! ## Rank on a built index (41_dense_index.md R97) -/

/-- `DenseRank1` on a built context answers the ones before `pos`. -/
theorem denseRank1_answers {s : State} {c : DenseContext} {pos : Nat} (ok : DenseOk s c) (hpos : pos ≤ c.length) :
    denseRank1 c pos s = .ok (s.ones c.src 0 pos) := by
  have hbits := ok.length_le_bits
  have hstart : s.ones c.src 0 (65536 * (pos / 65536)) + s.ones c.src (65536 * (pos / 128 / 512)) (128 * (pos / 128)) =
      s.ones c.src 0 (8 * (16 * (pos / 128))) := by
    rw [show pos / 128 / 512 = pos / 65536 by omega, ones_add s c.src (by omega) (by omega),
      show 8 * (16 * (pos / 128)) = 128 * (pos / 128) by omega]
  rw [denseRank1, if_neg (by omega), ok.entry_large (by omega), ok_bind, ok.entry_small (by omega), ok_bind, hstart]
  obtain ⟨count, hloop, hcount⟩ := forUp_answers
    (body := fun b count => do
        let x ← readByte c.src.memory b s
        .ok (count + popcount8 x))
    (a := 16 * (pos / 128)) (n := pos / 8 - 16 * (pos / 128)) (acc := s.ones c.src 0 (8 * (16 * (pos / 128))))
    (fun b count => count = s.ones c.src 0 (8 * b)) rfl (by
      rintro b count - hb rfl
      refine ⟨_, by rw [readByte_of_lt (by omega), ok_bind], ?_⟩
      rw [popcount8_peek, ones_add s c.src (by omega) (by omega), Nat.mul_succ])
  rw [show 16 * (pos / 128) + (pos / 8 - 16 * (pos / 128)) = pos / 8 by omega] at hcount
  simp only [hloop, ok_bind, hcount]
  split
  · rw [readByte_of_lt (by omega), ok_bind, show pos % 8 = pos - 8 * (pos / 8) by omega,
      popcount8_lowBits (by omega) (by omega), ones_add s c.src (by omega) (by omega)]
  · rw [show 8 * (pos / 8) = pos by omega]

/-! ## Select on a built index (42_dense_select.md R111 to R115) -/

section Count
variable {s : State} {src : Source} {v : Bool}

@[simp] theorem count_self (s : State) (src : Source) (v : Bool) (a : Nat) : s.count src v a a = 0 := by
  cases v <;> simp [State.count, State.zeros]

theorem count_succ (s : State) (src : Source) (v : Bool) (p : Nat) :
    s.count src v 0 (p + 1) = s.count src v 0 p + if s.bitAt src.memory p = v then 1 else 0 := by
  have hsucc := ones_succ s src (Nat.zero_le p)
  have hle := ones_le s src 0 p
  cases v with
  | true => simpa [State.count, Bool.toNat, Bool.cond_eq_ite] using hsucc
  | false =>
    cases hb : s.bitAt src.memory p with
    | true =>
      simp only [State.count, State.zeros, hsucc, hb, Bool.toNat_true]
      simp
    | false =>
      simp only [State.count, State.zeros, hsucc, hb, Bool.toNat_false]
      simp only [Bool.false_eq_true, if_false, if_true]
      omega

end Count

/-- The bit scan answers the position of the `rank`-th `v`-bit, where it lies in the window (R115). -/
theorem scanBits_answers {s : State} {src : Source} {v : Bool} {rank n p : Nat} (hn : p + n ≤ 8 * s.bufBytes)
    (hle : s.count src v 0 p ≤ rank) (hlt : rank < s.count src v 0 (p + n)) :
    ∃ q, scanBits src v rank s n p (s.count src v 0 p) = .ok q ∧ q < p + n ∧ s.bitAt src.memory q = v ∧
      s.count src v 0 q = rank := by
  induction n generalizing p with
  | zero =>
    rw [Nat.add_zero] at hlt
    omega
  | succ n ih =>
    have hsucc := count_succ s src v p
    rw [show p + (n + 1) = p + 1 + n by omega] at hn hlt ⊢
    rw [scanBits, readBit_of_lt (by omega), ok_bind]
    by_cases hb : s.bitAt src.memory p = v
    · rw [if_pos hb] at hsucc
      by_cases hfound : s.count src v 0 p + 1 = rank + 1
      · exact ⟨p, by rw [if_pos hb, if_pos hfound], by omega, hb, by omega⟩
      · rw [if_pos hb, if_neg hfound, ← hsucc]
        exact ih hn (by omega) hlt
    · have hsame : s.count src v 0 (p + 1) = s.count src v 0 p := by rw [hsucc, if_neg hb, Nat.add_zero]
      rw [if_neg hb, ← hsame]
      exact ih hn (by omega) hlt

section Select
variable {s : State} {c : DenseContext} (ok : DenseOk s c) (v : Bool)
include ok

theorem total_eq_count : total c v = s.count c.src v 0 c.length := by
  cases v <;> simp [total, State.count, State.zeros, ok.rank1Max_eq]

theorem cumL_answers {k : Nat} (hk : k ≤ c.length / 65536) : cumL c v k = .ok (s.count c.src v 0 (65536 * k)) := by
  rw [cumL, ok.entry_large hk, ok_bind]
  cases v <;> rfl

theorem cumS_answers {j : Nat} (hj : j ≤ c.length / 128) : cumS c v j = .ok (s.count c.src v 0 (128 * j)) := by
  rw [cumS, ok.entry_large (by omega), ok_bind, ok.entry_small hj, ok_bind, ones_add s c.src (by omega) (by omega)]
  cases v <;> rfl

/-- Step 1 answers the large block of the `rank`-th `v`-bit (R113). -/
theorem selectLarge_answers (rank : Nat) :
    ∃ k, selectLarge c v rank = .ok k ∧ k ≤ c.length / 65536 ∧ s.count c.src v 0 (65536 * k) ≤ rank ∧
      ∀ m, k < m → m ≤ c.length / 65536 → rank < s.count c.src v 0 (65536 * m) := by
  have hsize := ok.nlarge_eq
  have hp : ∀ k, 0 ≤ k → k < 0 + c.nlarge → (do .ok (decide ((← cumL c v k) ≤ rank)) : Except Stop Bool) =
      .ok (decide (s.count c.src v 0 (65536 * k) ≤ rank)) := fun k _ hk => by
    rw [cumL_answers ok v (by omega), ok_bind]
  obtain ⟨k, hk⟩ := lastWhere_answers hp (by omega) (by simp)
  obtain ⟨-, hlt, hle, hnext⟩ := (lastWhere_eq_ok hp).1 hk
  refine ⟨k, hk, by omega, of_decide_eq_true hle, fun m hm hm' => ?_⟩
  exact Nat.lt_of_not_le (of_decide_eq_false (hnext m hm (by omega)))

/-- Step 2 answers the small block of the `rank`-th `v`-bit in its large block (R114). -/
theorem selectSmall_answers {rank k : Nat} (hk : k ≤ c.length / 65536) (hle : s.count c.src v 0 (65536 * k) ≤ rank) :
    ∃ j, selectSmall c v rank k = .ok j ∧ j ≤ c.length / 128 ∧ j < 512 * k + 512 ∧ 512 * k ≤ j ∧
      s.count c.src v 0 (128 * j) ≤ rank ∧
      ∀ m, j < m → m ≤ c.length / 128 → m < 512 * k + 512 → rank < s.count c.src v 0 (128 * m) := by
  have hsize := ok.nsmall_eq
  have hp : ∀ j, 512 * k ≤ j → j < 512 * k + (min (512 * k + 512) c.nsmall - 512 * k) →
      (do .ok (decide ((← cumS c v j) ≤ rank)) : Except Stop Bool) =
        .ok (decide (s.count c.src v 0 (128 * j) ≤ rank)) := fun j _ hj => by
    rw [cumS_answers ok v (by omega), ok_bind]
  obtain ⟨j, hj⟩ := lastWhere_answers hp (by omega)
    (decide_eq_true (by rwa [show 128 * (512 * k) = 65536 * k by omega]))
  obtain ⟨hge, hlt, hle', hnext⟩ := (lastWhere_eq_ok hp).1 hj
  refine ⟨j, hj, by omega, by omega, hge, of_decide_eq_true hle', fun m hm hm' hm'' => ?_⟩
  exact Nat.lt_of_not_le (of_decide_eq_false (hnext m hm (by omega)))

/-- `DenseSelect` on a built context answers the position of the `rank`-th `v`-bit (R111). -/
theorem denseSelect_answers {rank : Nat} (hrank : rank < total c v) :
    ∃ p, denseSelect c rank v s = .ok p ∧ p < c.length ∧ s.bitAt c.src.memory p = v ∧ s.count c.src v 0 p = rank := by
  have hbits := ok.length_le_bits
  obtain ⟨k, hk, hkle, hkcount, hknext⟩ := selectLarge_answers ok v rank
  obtain ⟨j, hj, hjle, hjlt, hjge, hjcount, hjnext⟩ := selectSmall_answers ok v hkle hkcount
  -- the window ends with the small block, or with the sequence
  have hend : rank < s.count c.src v 0 (min (128 * j + 128) c.length) := by
    by_cases hin : 128 * j + 128 ≤ c.length
    · rw [Nat.min_eq_left hin, ← Nat.mul_succ]
      by_cases hblock : j + 1 < 512 * k + 512
      · exact hjnext (j + 1) (by omega) (by omega) hblock
      · rw [show 128 * (j + 1) = 65536 * (k + 1) by omega]
        exact hknext (k + 1) (by omega) (by omega)
    · rw [Nat.min_eq_right (by omega), ← total_eq_count ok v]
      exact hrank
  have hwindow : 128 * j + (min (128 * j + 128) c.length - 128 * j) = min (128 * j + 128) c.length := by omega
  obtain ⟨p, hp, hplt, hpbit, hpcount⟩ := scanBits_answers (s := s) (src := c.src)
    (n := min (128 * j + 128) c.length - 128 * j) (by omega) hjcount (by rwa [hwindow])
  refine ⟨p, ?_, by omega, hpbit, hpcount⟩
  rw [denseSelect, if_pos hrank, hk, ok_bind, hj, ok_bind, cumS_answers ok v hjle, ok_bind, hp]

end Select

/-! ## The high bitmap of a built sparse structure (44_sparse.md R146) -/

theorem setPosition_strictMono {s : State} {src : Source} {n i j : Nat} (hij : i < j) (hj : j < s.ones src 0 n) :
    s.setPosition src n i < s.setPosition src n j := by
  obtain ⟨-, -, hi'⟩ := setPosition_spec (Nat.lt_trans hij hj)
  obtain ⟨-, -, hj'⟩ := setPosition_spec hj
  by_contra hle
  have := ones_mono s src (Nat.zero_le _) (Nat.le_of_not_lt hle)
  omega

theorem pairwise_setPositions (s : State) (src : Source) (n : Nat) : (s.setPositions src n).Pairwise (· < ·) :=
  List.pairwise_lt_range.filter _

section General
variable {s : State} (ok : SparseOk s) (hgen : s.sv.degenerate = false)
include ok hgen

/-- The 1 bits of the high bitmap, in order, are those of the elements. -/
theorem SparseOk.setPositions_inner : s.setPositions .hbuf s.sv.inner.length =
    (List.range s.sv.weight).map fun i => (s.setPosition .buf s.sv.length i >>> s.sv.lowLength) + i := by
  have hmono {i j : Nat} (hij : i < j) (hj : j < s.sv.weight) :
      s.setPosition .buf s.sv.length i >>> s.sv.lowLength ≤ s.setPosition .buf s.sv.length j >>> s.sv.lowLength := by
    simp only [Nat.shiftRight_eq_div_pow]
    exact Nat.div_le_div_right (Nat.le_of_lt (setPosition_strictMono (src := .buf) hij (by rwa [← ok.weight_eq])))
  refine (pairwise_setPositions s .hbuf _).eq_of_mem_iff ?_ fun o => ?_
  · rw [List.pairwise_map]
    refine List.pairwise_lt_range.imp_of_mem fun _ hj hij => ?_
    have := hmono hij (List.mem_range.1 hj)
    omega
  · rw [mem_setPositions, List.mem_map]
    constructor
    · rintro ⟨ho, hbit⟩
      obtain ⟨i, hi, rfl⟩ := of_decide_eq_true ((ok.high_bits hgen o ho).symm.trans hbit)
      exact ⟨i, List.mem_range.2 hi, rfl⟩
    · rintro ⟨i, hi, rfl⟩
      replace hi := List.mem_range.1 hi
      have hlast : s.setPosition .buf s.sv.length i >>> s.sv.lowLength ≤ s.sv.lastSetPos >>> s.sv.lowLength := by
        rw [ok.lastSetPos_eq]
        rcases Nat.lt_or_ge i (s.sv.weight - 1) with hlt | hge
        · exact hmono hlt (by omega)
        · rw [show i = s.sv.weight - 1 by omega]
      have hlt : (s.setPosition .buf s.sv.length i >>> s.sv.lowLength) + i < s.sv.inner.length := by
        rw [(ok.general_inner hgen).2]
        omega
      exact ⟨hlt, (ok.high_bits hgen _ hlt).trans (decide_eq_true ⟨i, hi, rfl⟩)⟩

/-- The high bitmap has one 1 bit for each element. -/
theorem SparseOk.ones_inner : s.ones .hbuf 0 s.sv.inner.length = s.sv.weight := by
  rw [← length_setPositions, ok.setPositions_inner hgen, List.length_map, List.length_range]

theorem SparseOk.inner_rank1Max : s.sv.inner.rank1Max = s.sv.weight := by
  rw [ok.inner_ok.rank1Max_eq, (ok.general_inner hgen).1, ok.ones_inner hgen]

/-- Every element's code is in `LOW` (10_state.md R35). -/
theorem SparseOk.code_le {i : Nat} (hi : i < s.sv.weight) : i * s.sv.lowLength + s.sv.lowLength ≤ s.maxLen := by
  have hcodes := ok.lowBits_le hgen
  have hlen := ok.length_le
  have hcode : i * s.sv.lowLength + s.sv.lowLength ≤ s.sv.weight * s.sv.lowLength := by
    rw [← Nat.succ_mul]
    exact Nat.mul_le_mul_right _ hi
  omega

end General

/-! ## No command faults from the invariant (O52) -/

/-- A computation that does not fault the machine: it answers, or it raises a failure. -/
def Completes {α : Type} (r : Except Stop α) : Prop := ∀ f, r ≠ .error (.machine f)

theorem completes_of_ok {α : Type} {r : Except Stop α} (h : ∃ a, r = .ok a) : Completes r := by
  obtain ⟨a, rfl⟩ := h
  exact nofun

theorem completes_raised {α : Type} (e : Failure) : Completes (.error (.raised e) : Except Stop α) := nofun

theorem completes_ite {α : Type} {p : Prop} [Decidable p] {x y : Except Stop α} (hx : p → Completes x)
    (hy : ¬ p → Completes y) : Completes (if p then x else y) := by
  split
  · exact hx ‹_›
  · exact hy ‹_›

theorem conclude_not_fault {r : Except Stop Nat} (h : Completes r) (s : State) (f : Fault) : conclude r s ≠ .fault f :=
  fun hf => h f (conclude_fault.1 hf)

theorem concludeBuild_not_fault {r : Except Stop State} (h : Completes r) (s : State) (f : Fault) :
    concludeBuild r s ≠ .fault f :=
  fun hf => h f (concludeBuild_fault.1 hf)

theorem denseRank1_completes {s : State} {c : DenseContext} (ok : DenseOk s c) (pos : Nat) :
    Completes (denseRank1 c pos s) := by
  rcases Nat.lt_or_ge c.length pos with h | h
  · rw [denseRank1, if_pos h]
    exact completes_raised _
  · exact completes_of_ok ⟨_, denseRank1_answers ok h⟩

theorem denseSelect_completes {s : State} {c : DenseContext} (ok : DenseOk s c) (rank : Nat) (v : Bool) :
    Completes (denseSelect c rank v s) := by
  by_cases h : rank < total c v
  · obtain ⟨p, hp, -⟩ := denseSelect_answers ok v h
    exact completes_of_ok ⟨p, hp⟩
  · rw [denseSelect, if_neg h]
    exact completes_raised _

/-- `LowGet` answers for every code in the memory (43_bit_field.md R133). -/
theorem lowGet_answers {s : State} {l r : Nat} (h : r * l + l ≤ s.maxLen) : ∃ x, lowGet l r s = .ok x := by
  have loop : ∃ x, lowGet l r s = .ok x ∧ True := by
    refine forUp_answers (fun _ _ => True) trivial ?_
    intro t value _ ht _
    rw [readBit_of_lt (by simp only [State.maxLen] at h; omega), ok_bind]
    exact ⟨_, rfl, trivial⟩
  obtain ⟨x, hx, -⟩ := loop
  exact ⟨x, hx⟩

section General
variable {s : State} (ok : SparseOk s) (hgen : s.sv.degenerate = false)
include ok hgen

/-- The walk of R151 answers from every position of the bitmap, given the number of the element that comes next. -/
theorem sparseWalk_answers (highRank0 pos : Nat) {fuel offset : Nat} (hfuel : offset + fuel ≤ s.sv.inner.length) :
    ∃ x, sparseWalk s.sv.lowLength highRank0 pos .hbuf s fuel offset (s.ones .hbuf 0 offset) = .ok x := by
  have hbits := ok.inner_ok.length_le_bits
  induction fuel generalizing offset with
  | zero => exact ⟨_, rfl⟩
  | succ fuel ih =>
    have hsucc := ones_succ s .hbuf (Nat.zero_le offset)
    rw [sparseWalk, readBit_of_lt (by omega), ok_bind]
    split
    · rename_i hb
      have helement : s.ones .hbuf 0 offset < s.sv.weight := by
        rw [← ok.ones_inner hgen]
        exact ones_lt_of_bitAt hb (by omega)
      obtain ⟨low, hlow⟩ := lowGet_answers (ok.code_le hgen helement)
      rw [hlow, ok_bind]
      split
      · exact ⟨_, rfl⟩
      · have hnext : s.ones .hbuf 0 offset + 1 = s.ones .hbuf 0 (offset + 1) := by rw [hsucc, hb]; rfl
        rw [hnext]
        exact ih (by omega)
    · exact ⟨_, rfl⟩

/-- The walk starts in the bitmap, past its bucket's zeros (R151). -/
theorem sparseWalkStart_answers {highRank0 : Nat}
    (h : highRank0 ≤ s.sv.inner.length - s.sv.inner.rank1Max) :
    ∃ offset, sparseWalkStart s.sv.inner highRank0 s = .ok offset ∧ offset ≤ s.sv.inner.length ∧
      offset - highRank0 = s.ones .hbuf 0 offset := by
  rcases Nat.eq_zero_or_pos highRank0 with rfl | hpos
  · exact ⟨0, rfl, Nat.zero_le _, by simp⟩
  obtain ⟨z, hz, hlt, hbit, hcount⟩ := denseSelect_answers ok.inner_ok false (rank := highRank0 - 1)
    (by simp only [total, Bool.false_eq_true, if_false]; omega)
  rw [(ok.general_inner hgen).1] at hbit hcount
  have hzeros := count_succ s .hbuf false z
  rw [hcount, if_pos hbit] at hzeros
  have hsum := ones_add_zeros s .hbuf 0 (z + 1)
  refine ⟨z + 1, by rw [sparseWalkStart, if_neg (by omega), hz, ok_bind], hlt, ?_⟩
  simp only [State.count, Bool.false_eq_true, if_false] at hzeros
  omega

theorem sparseRank1General_completes (pos : Nat) : Completes (sparseRank1General s.sv pos s) := by
  refine completes_ite (fun _ => completes_raised _) fun _ => ?_
  refine completes_ite (fun _ => completes_of_ok ⟨_, rfl⟩) fun hbucket => ?_
  obtain ⟨offset, hstart, hle, helement⟩ := sparseWalkStart_answers ok hgen (Nat.le_of_not_lt hbucket)
  rw [hstart, ok_bind, helement, (ok.general_inner hgen).1]
  exact completes_of_ok (sparseWalk_answers ok hgen _ _ (by omega))

theorem sparseSelect1General_completes (rank : Nat) : Completes (sparseSelect1General s.sv rank s) := by
  by_cases h : rank < s.sv.weight
  · obtain ⟨p, hp, -⟩ := denseSelect_answers ok.inner_ok true (rank := rank)
      (by simpa [total, ok.inner_rank1Max hgen] using h)
    obtain ⟨low, hlow⟩ := lowGet_answers (ok.code_le hgen h)
    rw [sparseSelect1General, hp, ok_bind, hlow, ok_bind]
    exact completes_of_ok ⟨_, rfl⟩
  · have hrank : ¬ rank < total s.sv.inner true := by simpa [total, ok.inner_rank1Max hgen] using h
    rw [sparseSelect1General, denseSelect, if_neg hrank]
    exact completes_raised _

end General

theorem dbuildBody_completes (s : State) : Completes (dbuildBody s) := by
  refine completes_ite (fun _ => completes_raised _) fun hlen => ?_
  rw [denseBuild_answers .buf (Nat.le_of_not_lt hlen)]
  exact completes_of_ok ⟨_, rfl⟩

theorem sbuildBody_completes (s : State) : Completes (sbuildBody s) := by
  refine completes_ite (fun _ => completes_raised _) fun hlen => ?_
  replace hlen : s.operand ≤ s.maxLen := Nat.le_of_not_lt hlen
  obtain ⟨p, hp, -, hdone⟩ := sparsePassOne_answers hlen
  simp only [hp, ok_bind]
  refine completes_ite (fun _ => completes_raised _) fun hpos => completes_ite (fun _ => ?_) fun hl => ?_
  · rw [denseBuild_answers .buf hlen]
    exact completes_of_ok ⟨_, rfl⟩
  · have hbitmap := (hdone hpos).bitmap_le hl
    obtain ⟨u, hu, -⟩ := sparsePassTwo_answers (hdone hpos) ((hdone hpos).codes_le hl) hbitmap
    have hcap : u.maxLen = s.maxLen := (congrArg State.maxLen (sparsePassTwo_frame hu) :)
    rw [hu, ok_bind, denseBuild_answers .hbuf (by rw [hcap]; exact hbitmap)]
    exact completes_of_ok ⟨_, rfl⟩

/-- No command faults from a state of the invariant. -/
theorem exec_not_fault {s : State} (inv : Inv s) (i : Instr) (f : Fault) : exec i s ≠ .fault f := by
  obtain ⟨-, dense, sparse⟩ := inv
  cases i with
  | popcnt8 | log2floor | log2ceil =>
    exact conclude_not_fault (completes_ite (fun _ => completes_raised _) fun _ => completes_of_ok ⟨_, rfl⟩) s f
  | dbuild => exact concludeBuild_not_fault (dbuildBody_completes _) _ f
  | sbuild => exact concludeBuild_not_fault (sbuildBody_completes _) _ f
  | drank1 =>
    refine conclude_not_fault (completes_ite (fun hd => ?_) fun _ => completes_raised _) s f
    exact denseRank1_completes (dense hd).2 _
  | dselect1 | dselect0 =>
    refine conclude_not_fault (completes_ite (fun hd => ?_) fun _ => completes_raised _) s f
    exact denseSelect_completes (dense hd).2 _ _
  | srank1 =>
    refine conclude_not_fault (completes_ite (fun hv => completes_ite (fun _ => ?_) fun hdeg => ?_)
      fun _ => completes_raised _) s f
    · exact denseRank1_completes (sparse hv).inner_ok _
    · exact sparseRank1General_completes (sparse hv) (Bool.eq_false_of_not_eq_true hdeg) _
  | sselect1 =>
    refine conclude_not_fault (completes_ite (fun hv => completes_ite (fun _ => ?_) fun hdeg => ?_)
      fun _ => completes_raised _) s f
    · exact denseSelect_completes (sparse hv).inner_ok _ _
    · exact sparseSelect1General_completes (sparse hv) (Bool.eq_false_of_not_eq_true hdeg) _

/-- A write to an existing register other than `CMD`, of a value of its width (10_state.md R10). -/
theorem hostWrite_of_ne_cmd {r : HostReg} (h : r ≠ .cmd) (v : Nat) (s : State) :
    hostWrite r v s = .next (writeRegister r v s) := by
  cases r with
  | cmd => exact absurd rfl h
  | _ => rfl

/-- What one input can do: what is no transaction is refused; a write to `CMD` issues its word; everything else answers a next
state (10_state.md R10, R12, R21). -/
theorem perform_cases (t : HostInput) (s : State) :
    (t.wellFormed = false ∧ ∃ x, perform t s = .refused x) ∨
    (t.wellFormed = true ∧ ((∃ w, perform t s = issueCommand w s) ∨ ∃ u, perform t s = .next u)) := by
  cases t with
  | reset => exact .inr ⟨rfl, .inr ⟨_, rfl⟩⟩
  | read n =>
    simp only [HostInput.wellFormed, perform]
    cases HostReg.ofNumber n with
    | none => exact .inl ⟨rfl, _, rfl⟩
    | some r => exact .inr ⟨rfl, .inr ⟨_, rfl⟩⟩
  | write n v =>
    simp only [HostInput.wellFormed, perform]
    cases HostReg.ofNumber n with
    | none => exact .inl ⟨rfl, _, rfl⟩
    | some r =>
      by_cases hv : v < 2 ^ r.width
      · refine .inr ⟨decide_eq_true hv, ?_⟩
        simp only [if_pos hv]
        by_cases hr : r = .cmd
        · exact .inl ⟨BitVec.ofNat 32 v, by rw [hr]; rfl⟩
        · exact .inr ⟨_, hostWrite_of_ne_cmd hr v s⟩
      · exact .inl ⟨decide_eq_false hv, _, if_neg hv⟩

/-- Issuing a command word faults only where the command does. -/
theorem issueCommand_fault {w : BitVec 32} {s : State} {f : Fault} (h : issueCommand w s = .fault f) :
    ∃ i, exec i { s with cmd := w } = .fault f := by
  unfold issueCommand at h
  split at h
  · exact ⟨_, h⟩
  · cases h

/-- A step faults only where it runs a command that does. -/
theorem step_fault {s : State} {f : Fault} (h : step s = .fault f) :
    ∃ i u, KeepsStructures s u ∧ exec i u = .fault f := by
  cases hs : s.inputs with
  | nil => rw [step_idle hs] at h; cases h
  | cons t rest =>
    rw [step_input hs] at h
    obtain ⟨-, x, hx⟩ | ⟨-, ⟨w, hw⟩ | ⟨u, hu⟩⟩ := perform_cases t { s with inputs := rest }
    · rw [hx] at h; cases h
    · rw [hw] at h
      obtain ⟨i, hi⟩ := issueCommand_fault h
      exact ⟨i, { s with inputs := rest, cmd := w }, ⟨rfl, rfl, rfl, rfl, rfl, rfl, rfl, rfl⟩, hi⟩
    · rw [hu] at h; cases h

/-- Settles O52: a command runs in a state of the invariant, and there every byte, entry and search it needs exists. -/
theorem noStepFaultsFromTheInvariant : Obligations.NoStepFaultsFromTheInvariant := by
  intro s f inv h
  obtain ⟨i, u, keeps, hrun⟩ := step_fault h
  exact exec_not_fault (keeps.inv inv) i f hrun

/-! ## What a transaction does (10_state.md R10 to R21, R48) -/

section Transactions
variable {s : State} {rest : List HostInput}

theorem step_command {w : BitVec 32} (h : s.inputs = .write 0 w.toNat :: rest) :
    step s = issueCommand w { s with inputs := rest } := by
  have hwidth : w.toNat < 2 ^ HostReg.cmd.width := w.isLt
  rw [step_input h]
  simp only [perform, HostReg.ofNumber, if_pos hwidth, hostWrite, BitVec.ofNat_toNat, BitVec.setWidth_eq]

theorem step_write {r : HostReg} {v : Nat} (h : s.inputs = .write r.number v :: rest) (hr : r ≠ .cmd)
    (hv : v < 2 ^ r.width) : step s = .next (writeRegister r v { s with inputs := rest }) := by
  rw [step_input h]
  simp only [perform, ofNumber_number, if_pos hv, hostWrite_of_ne_cmd hr]

theorem step_read (r : HostReg) (h : s.inputs = .read r.number :: rest) :
    step s = .next { s with inputs := rest, outputs := s.outputs ++ [hostRead s r] } := by
  rw [step_input h]
  simp only [perform, ofNumber_number]
  cases r <;> rfl

theorem step_reset (h : s.inputs = .reset :: rest) : step s = .next (resetEvent { s with inputs := rest }) := by
  rw [step_input h]
  rfl

end Transactions

/-! ## Refusals (O53) -/

theorem issueCommand_not_refused (w : BitVec 32) (s : State) (x : Refusal) : issueCommand w s ≠ .refused x := by
  unfold issueCommand
  split
  · exact exec_not_refused _ _ x
  · exact nofun

theorem perform_refused (t : HostInput) (s : State) : (∃ x, perform t s = .refused x) ↔ t.wellFormed = false := by
  obtain ⟨hwf, hx⟩ | ⟨hwf, ⟨w, hw⟩ | ⟨u, hu⟩⟩ := perform_cases t s
  · simp [hwf, hx]
  · simp [hwf, hw, issueCommand_not_refused]
  · simp [hwf, hu]

theorem step_refused (s : State) :
    (∃ x, step s = .refused x) ↔ ∃ t rest, s.inputs = t :: rest ∧ t.wellFormed = false := by
  cases hs : s.inputs with
  | nil => simp [step_idle hs]
  | cons t rest =>
    rw [step_input hs, perform_refused]
    simp

/-- The sixteen widths of R11's table, in the order of the register numbers. -/
def registerWidths : List Nat := [32, 64, 64, 4, 64, 8, 3, 64, 64, 64, 64, 64, 64, 64, 64, 64]

theorem number_le (r : HostReg) : r.number ≤ 15 := by
  cases r <;> decide

theorem registerWidths_number (r : HostReg) : registerWidths[r.number]? = some r.width := by
  cases r <;> rfl

theorem ofNumber_cases (n : Nat) : (15 < n ∧ HostReg.ofNumber n = none) ∨ ∃ r : HostReg, n = r.number := by
  cases h : HostReg.ofNumber n with
  | some r => exact .inr ⟨r, number_of_ofNumber h⟩
  | none =>
    refine .inl ⟨?_, rfl⟩
    by_contra hn
    have : n < 16 := by omega
    revert h
    interval_cases n <;> simp [HostReg.ofNumber]

theorem read_not_wellFormed (n : Nat) : (HostInput.read n).wellFormed = false ↔ 15 < n := by
  obtain ⟨hn, hnone⟩ | ⟨r, rfl⟩ := ofNumber_cases n
  · simp [HostInput.wellFormed, hnone, hn]
  · have := number_le r
    simp [HostInput.wellFormed, ofNumber_number, this]

theorem write_not_wellFormed (n v : Nat) : (HostInput.write n v).wellFormed = false ↔
    15 < n ∨ ∃ width, registerWidths[n]? = some width ∧ 2 ^ width ≤ v := by
  obtain ⟨hn, hnone⟩ | ⟨r, rfl⟩ := ofNumber_cases n
  · simp [HostInput.wellFormed, hnone, hn]
  · have := number_le r
    simp [HostInput.wellFormed, ofNumber_number, registerWidths_number, this]

/-- Settles O53: every command has its meaning, so only an input that is no transaction is refused. -/
theorem onlyNonTransactionsAreRefused : Obligations.OnlyNonTransactionsAreRefused := by
  refine fun s => ⟨step_refused s, (step_refused s).trans ⟨?_, ?_⟩⟩
  · rintro ⟨t, rest, hs, hwf⟩
    cases t with
    | reset => cases hwf
    | read n => exact .inl ⟨n, rest, hs, (read_not_wellFormed n).1 hwf⟩
    | write n v => exact .inr ⟨n, v, rest, hs, (write_not_wellFormed n v).1 hwf⟩
  · rintro (⟨n, rest, hs, hn⟩ | ⟨n, v, rest, hs, hwide⟩)
    · exact ⟨_, rest, hs, (read_not_wellFormed n).2 hn⟩
    · exact ⟨_, rest, hs, (write_not_wellFormed n v).2 hwide⟩

/-! ## The registers (O4 to O8) -/

/-- A register other than `CMD` leaves `CMD` when it is written. -/
theorem writeRegister_cmd {r : HostReg} (hr : r ≠ .cmd) (v : Nat) (s : State) : (writeRegister r v s).cmd = s.cmd := by
  obtain ⟨a, p, hw⟩ | ⟨-, -, hw⟩ := writeRegister_cases hr v s <;> rw [hw]

theorem dbuildBody_frame {s t : State} (h : dbuildBody s = .ok t) :
    t = { s with dv := t.dv, flags := t.flags } := by
  obtain ⟨-, c, -, rfl⟩ := dbuildBody_eq_ok h
  rfl

/-- A command leaves the host's registers, `BUF`, the capacity and the host's side (30_encoding.md R68). -/
theorem exec_frame {i : Instr} {s t : State} (h : exec i s = .next t) :
    t = { s with
      res := t.res, status := t.status, draws := t.draws, flags := t.flags, hbuf := t.hbuf, low := t.low,
      dv := t.dv, sv := t.sv } := by
  obtain ⟨-, ⟨v, rfl⟩ | ⟨e, rfl⟩⟩ | ⟨-, ⟨u, hu, rfl⟩ | ⟨e, -, rfl⟩⟩ | ⟨-, ⟨u, hu, rfl⟩ | ⟨e, -, rfl⟩⟩ := exec_next h
  case inr.inl.inl => rw [dbuildBody_frame hu]; rfl
  case inr.inr.inl => rw [(sbuildBody_frame hu).1]; rfl
  all_goals rfl

/-- Settles O4: the step of a write to `CMD` issues its word, and no other input but reset writes `CMD`. -/
theorem cmdWriteRunsTheDecodedCommand : Obligations.CmdWriteRunsTheDecodedCommand := by
  refine ⟨fun s w rest i hs hd => ?_, fun s w rest x hs hd => ?_, fun s rest hs => ?_, fun s t h => ?_, rfl⟩
  · rw [step_command hs, issueCommand, hd]
  · rw [step_command hs, issueCommand, hd]
    exact ⟨_, _, rfl⟩
  · exact step_read .cmd hs
  obtain ⟨hs, rfl⟩ | ⟨rest, hstep⟩ := step_next h
  · simp [hs]
  obtain ⟨v, i, hs, hv, -, hrun⟩ | ⟨v, x, hs, hv, -, rfl⟩ | ⟨r, v, hs, hr, -, rfl⟩ | ⟨r, hs, rfl⟩ | ⟨hs, rfl⟩ := hstep
  · have hcmd : t.cmd = BitVec.ofNat 32 v := (congrArg State.cmd (exec_frame hrun) :)
    simp +contextual [hs, hcmd]
  · simp +contextual [hs]
  · have hzero : r.number ≠ 0 := by cases r <;> simp [HostReg.number] at hr ⊢
    simp [hs, writeRegister_cmd hr, hzero]
  · simp [hs]
  · simp [hs]

/-- Settles O5: a read appends the register's value to the outputs, and the sixteen values are those of R11 to R21. -/
theorem hostReadReturnsTheRegisterAndChangesNothing : Obligations.HostReadReturnsTheRegisterAndChangesNothing := by
  refine ⟨rfl, fun s rest => ?_⟩
  intro answers gatedBy
  have read (r : HostReg) : answers r.number (hostRead s r) := step_read r
  have hcmd : hostRead s .cmd = BitVec.ofNat 64 s.cmd.toNat := (BitVec.ofNat_toNat 64 s.cmd).symm
  have hflags : hostRead s .flags = BitVec.ofNat 64 s.flags.toNat := (BitVec.ofNat_toNat 64 s.flags).symm
  refine ⟨hcmd ▸ read .cmd, read .arg0, read .res, ?_, read .bufptr, read .bufdata, hflags ▸ read .flags, read .dlen,
    read .dr1max, read .slen, read .sweight, read .slowlen, read .shighlen, read .slowmask, read .reserved14,
    read .reserved15, read⟩
  have hstatus := read .status
  revert hstatus
  simp only [hostRead]
  cases s.status with
  | ok => exact id
  | failed e => cases e <;> exact id

/-- The read-only and the reserved registers (10_state.md R11, R21). -/
def ignoringRegisters : List HostReg :=
  [.res, .status, .flags, .dlen, .dr1max, .slen, .sweight, .slowlen, .shighlen, .slowmask, .reserved14, .reserved15]

theorem writeRegister_of_ignoring {r : HostReg} (hr : r ∈ ignoringRegisters) (v : Nat) (s : State) :
    r ≠ .cmd ∧ writeRegister r v s = s := by
  cases r with
  | cmd | arg0 | bufptr | bufdata => simp [ignoringRegisters] at hr
  | _ => exact ⟨nofun, rfl⟩

/-- Settles O6: the read-only and the reserved registers take no value, and a number above 15 names none. -/
theorem readOnlyAndReservedRegistersIgnoreWrites : Obligations.ReadOnlyAndReservedRegistersIgnoreWrites := by
  constructor
  · intro s n width v rest hmem hv hs
    obtain ⟨r, hr, heq⟩ := List.mem_map.1 (show (n, width) ∈ ignoringRegisters.map fun r => (r.number, r.width) from hmem)
    obtain ⟨rfl, rfl⟩ := Prod.mk.inj heq
    obtain ⟨hne, hsame⟩ := writeRegister_of_ignoring hr v { s with inputs := rest }
    rw [step_write hs hne hv, hsame]
  · intro s n v rest hn
    have hnone := ofNumber_of_gt hn
    constructor <;> intro hs <;> rw [step_input hs] <;> simp only [perform, hnone]

/-- Settles O7: the two writable registers take the value, which has their width. -/
theorem arg0AndBufptrTakeTheWrittenValue : Obligations.Arg0AndBufptrTakeTheWrittenValue := by
  intro s v rest
  have hvalue : BitVec.ofNat wordBits v.toNat = v := by simp
  constructor
  · intro hs
    rw [step_write (r := .arg0) hs nofun v.isLt, writeRegister, hvalue]
  · intro hs
    rw [step_write (r := .bufptr) hs nofun v.isLt, writeRegister, hvalue]

section LoadPort
variable {s : State} {v : BitVec 8} {rest : List HostInput} (hs : s.inputs = .write 5 v.toNat :: rest)
include hs

theorem step_bufdata : step s = .next (loadByte v { s with inputs := rest }) := by
  rw [step_write (r := .bufdata) hs nofun v.isLt, writeRegister, BitVec.ofNat_toNat, BitVec.setWidth_eq]

/-- The load port stores where `BUFPTR` is inside the buffer. -/
theorem step_bufdata_of_lt (h : s.bufptr.toNat < s.bufBytes) : step s = .next
    { s with inputs := rest, buf := s.buf.write s.bufptr.toNat v, bufptr := s.bufptr + 1, flags := 0 } := by
  rw [step_bufdata hs, loadByte_of_lt (s := { s with inputs := rest }) h]

end LoadPort

/-- Settles O8: the two branches of the load port. -/
theorem loadPortStoresOrDiscards : Obligations.LoadPortStoresOrDiscards := by
  refine ⟨fun s v rest hcap hs hlt => ?_, fun s v rest hs hge => ?_, fun s rest hs => step_read .bufdata hs⟩
  · refine ⟨_, step_bufdata_of_lt hs hlt, rfl, ?_, fun a => ?_⟩
    · have hone : (1 : Word).toNat = 1 := rfl
      rw [BitVec.toNat_add, hone, Nat.mod_eq_of_lt (by simp only [wordBits]; omega)]
    · have hpeek := peek_setMemory_write s .buf .buf s.bufptr.toNat a v
      simp only [true_and, eq_comm (a := s.bufptr.toNat)] at hpeek
      exact hpeek
  · rw [step_bufdata hs, loadByte_of_ge (s := { s with inputs := rest }) hge]

/-! ## What commands and steps leave unchanged (O9, O44, O45) -/

/-- Settles O9: a register write, a register read and an idle step have no part in `STATUS` and `RES`. -/
theorem onlyCommandsAndResetChangeStatusAndRes : Obligations.OnlyCommandsAndResetChangeStatusAndRes := by
  intro s t h hcmd hreset
  obtain ⟨-, rfl⟩ | ⟨rest, hstep⟩ := step_next h
  · exact ⟨rfl, rfl⟩
  obtain ⟨v, i, hs, -⟩ | ⟨v, x, hs, -⟩ | ⟨r, v, -, hr, -, rfl⟩ | ⟨r, -, rfl⟩ | ⟨hs, -⟩ := hstep
  · exact absurd (by rw [hs]; rfl) (hcmd v)
  · exact absurd (by rw [hs]; rfl) (hcmd v)
  · obtain ⟨a, p, hw⟩ | ⟨-, -, hw⟩ := writeRegister_cases hr v { s with inputs := rest } <;> rw [hw] <;> exact ⟨rfl, rfl⟩
  · exact ⟨rfl, rfl⟩
  · exact absurd (by rw [hs]; rfl) hreset

/-- Settles O44, by the frame of a command. -/
theorem commandsKeepTheHostsRegistersAndBuffer : Obligations.CommandsKeepTheHostsRegistersAndBuffer := by
  intro s t i h
  rw [exec_frame h]
  exact ⟨rfl, rfl, rfl, rfl, rfl, rfl, rfl, rfl⟩

/-- A command that builds nothing ends by `finish` or `raise` (30_encoding.md R68). -/
theorem exec_readsOnly_frame {i : Instr} (hi : readsOnly i = true) {s t : State} (h : exec i s = .next t) :
    t = { s with res := t.res, status := t.status, draws := t.draws } := by
  obtain ⟨-, ⟨v, rfl⟩ | ⟨e, rfl⟩⟩ | ⟨rfl, -⟩ | ⟨rfl, -⟩ := exec_next h
  · rfl
  · rfl
  · cases hi
  · cases hi

/-- Settles O45: those eight commands are the ones that build nothing. -/
theorem queriesWriteOnlyResAndStatus : Obligations.QueriesWriteOnlyResAndStatus := by
  intro s t i hi h
  refine exec_readsOnly_frame ?_ h
  clear h
  revert i
  decide

/-! ## The flags (O10) -/

theorem opcodeTable_opcode : ∀ p ∈ opcodeTable, p.1 = opcode p.2 := by
  decide

/-- Only the encoding of a command decodes to it (30_encoding.md R61). -/
theorem eq_encode_of_decode {w : BitVec 32} {i : Instr} (h : decode w = .ok i) : w = encode i := by
  unfold decode at h
  split at h
  · rename_i hformat
    split at h
    · rename_i j hlookup
      obtain rfl := Except.ok.inj h
      obtain ⟨l, l', htable, -⟩ := List.lookup_eq_some_iff.1 hlookup
      have hopcode : w.extractLsb' 0 8 = opcode j := opcodeTable_opcode (_, j)
        (by rw [htable]; exact List.mem_append_right l List.mem_cons_self)
      have hupper : w.extractLsb' 8 24 = 0#24 := by simpa [formatC] using hformat
      rw [encode, ← hopcode, ← hupper, BitVec.extractLsb'_append_extractLsb'_eq_extractLsb' (start₁ := 0) (len₁ := 8) rfl]
      exact BitVec.extractLsb'_eq_self.symm
    · cases h
  · cases h

/-- The input that runs a command is the write of its word. -/
theorem head?_of_decode {s : State} {v : Nat} {i : Instr} {rest : List HostInput} (hs : s.inputs = .write 0 v :: rest)
    (hv : v < 2 ^ 32) (hd : decode (BitVec.ofNat 32 v) = .ok i) : s.inputs.head? = some (.write 0 (encode i).toNat) := by
  rw [hs, ← eq_encode_of_decode hd, BitVec.toNat_ofNat, Nat.mod_eq_of_lt hv]
  rfl

/-- `DBUILD` from `s` to `t` sets or clears `DVALID`, and sets it only when it succeeds (10_state.md R18). -/
def DbuildFlags (s t : State) : Prop :=
  t.svalid = s.svalid ∧ t.sdegen = s.sdegen ∧ (t.dvalid = true → t.status = .ok)

/-- `SBUILD` from `s` to `t` sets `SVALID`, and `SDEGEN` by the length of the codes, when it succeeds, and clears both when it
fails (10_state.md R18). -/
def SbuildFlags (s t : State) : Prop :=
  t.dvalid = s.dvalid ∧ ((t.status = .ok ∧ t.svalid = true ∧ t.sdegen = decide (t.sv.lowLength = 0)) ∨
    (t.status ≠ .ok ∧ t.svalid = false ∧ t.sdegen = false))

/-- Of the commands only the two builds change `FLAGS`. -/
theorem exec_flags {i : Instr} {s t : State} (h : exec i s = .next t) :
    t.flags = s.flags ∨ (i = .dbuild ∧ DbuildFlags s t) ∨ (i = .sbuild ∧ SbuildFlags s t) := by
  obtain ⟨-, ⟨v, rfl⟩ | ⟨e, rfl⟩⟩ | ⟨rfl, ⟨u, hu, rfl⟩ | ⟨e, -, rfl⟩⟩ | ⟨rfl, ⟨u, hu, rfl⟩ | ⟨e, -, rfl⟩⟩ := exec_next h
  · exact .inl rfl
  · exact .inl rfl
  · obtain ⟨-, c, -, rfl⟩ := dbuildBody_eq_ok hu
    exact .inr (.inl ⟨rfl, (svalid_setDvalid _ _).trans (svalid_setDvalid _ _),
      (sdegen_setDvalid _ _).trans (sdegen_setDvalid _ _), fun _ => rfl⟩)
  · exact .inr (.inl ⟨rfl, by simp, by simp, by simp⟩)
  · have ok := sparseOk_sbuildBody (by simp) hu
    obtain ⟨-, hsvalid, hdvalid, -⟩ := sbuildBody_frame hu
    exact .inr (.inr ⟨rfl, hdvalid.trans (by simp), .inl ⟨rfl, hsvalid, ok.sdegen_eq.trans ok.degenerate_eq⟩⟩)
  · exact .inr (.inr ⟨rfl, by simp, .inr ⟨by simp, by simp, by simp⟩⟩)

/-- What a step can do to `FLAGS`: nothing; clear all of it, by reset or a load that stores; or what the two builds do. -/
theorem step_flags {s t : State} (h : step s = .next t) :
    t.flags = s.flags ∨
    (t.flags = 0 ∧ (s.inputs.head? = some .reset ∨
      ((∃ v, s.inputs.head? = some (.write 5 v)) ∧ s.bufptr.toNat < s.bufBytes))) ∨
    (s.inputs.head? = some (.write 0 0x10) ∧ DbuildFlags s t) ∨
    (s.inputs.head? = some (.write 0 0x20) ∧ SbuildFlags s t) := by
  obtain ⟨-, rfl⟩ | ⟨rest, hstep⟩ := step_next h
  · exact .inl rfl
  obtain ⟨v, i, hs, hv, hd, hrun⟩ | ⟨v, x, -, -, -, rfl⟩ | ⟨r, v, hs, hr, -, rfl⟩ | ⟨r, -, rfl⟩ | ⟨hs, rfl⟩ := hstep
  · have hhead := head?_of_decode hs hv hd
    obtain same | ⟨rfl, hbuild⟩ | ⟨rfl, hbuild⟩ := exec_flags hrun
    · exact .inl same
    · exact .inr (.inr (.inl ⟨hhead, hbuild⟩))
    · exact .inr (.inr (.inr ⟨hhead, hbuild⟩))
  · exact .inl rfl
  · obtain ⟨a, p, hw⟩ | ⟨rfl, hlt, hw⟩ := writeRegister_cases hr v { s with inputs := rest }
    · exact .inl (by rw [hw])
    · exact .inr (.inl ⟨by rw [hw], .inr ⟨⟨v, by rw [hs]; rfl⟩, hlt⟩⟩)
  · exact .inl rfl
  · exact .inr (.inl ⟨rfl, .inl (by rw [hs]; rfl)⟩)

/-- Settles O10: what each of the four kinds of step does to the three bits. -/
theorem flagsChangeOnlyByBuildsLoadsAndReset : Obligations.FlagsChangeOnlyByBuildsLoadsAndReset := by
  intro s t h
  obtain same | ⟨clear, hevent⟩ | ⟨hhead, hs, hg, hd⟩ | ⟨hhead, hd, hbuilt | hfailed⟩ := step_flags h
  · simp only [State.dvalid, State.svalid, State.sdegen, same]
    simp +contextual
  · have hd : t.dvalid = false := by rw [State.dvalid, clear]; rfl
    have hs : t.svalid = false := by rw [State.svalid, clear]; rfl
    have hg : t.sdegen = false := by rw [State.sdegen, clear]; rfl
    rw [hd, hs, hg]
    tauto
  · rw [hs, hg]
    simp +contextual [hhead, hd]
  · obtain ⟨hok, hs, hg⟩ := hbuilt
    rw [hd, hs, hg]
    simp +contextual [hhead, hok]
  · obtain ⟨hstatus, hs, hg⟩ := hfailed
    rw [hd, hs, hg]
    simp +contextual [hhead, hstatus]

/-! ## Reset (O11, O48) -/

/-- A query of a structure that is not valid fails with `NotBuilt`, whatever its operand (60_exceptions.md R170). -/
theorem exec_notBuilt {i : Instr} {s : State} (h : (i ∈ [.drank1, .dselect1, .dselect0] ∧ s.dvalid = false) ∨
    (i ∈ [.srank1, .sselect1] ∧ s.svalid = false)) : exec i s = .next (raise .notBuilt s) := by
  rcases h with ⟨hi, hd⟩ | ⟨hi, hv⟩
  · simp only [List.mem_cons, List.not_mem_nil, or_false] at hi
    obtain rfl | rfl | rfl := hi
    · simp [exec, execDrank1, hd, conclude]
    · simp [exec, execDselect1, hd, conclude]
    · simp [exec, execDselect0, hd, conclude]
  · simp only [List.mem_cons, List.not_mem_nil, or_false] at hi
    obtain rfl | rfl := hi
    · simp [exec, execSrank1, hv, conclude]
    · simp [exec, execSselect1, hv, conclude]

/-- `DBUILD` of a length the buffer can hold (41_dense_index.md R95). -/
theorem exec_dbuild_of_le {s : State} (h : s.operand ≤ s.maxLen) : exec .dbuild s = .next
    (finish 0 (State.setDvalid true { s.setDvalid false with dv := specContext (s.setDvalid false) .buf s.operand })) := by
  have hbody : dbuildBody (s.setDvalid false) =
      .ok (State.setDvalid true { s.setDvalid false with dv := specContext (s.setDvalid false) .buf s.operand }) := by
    have hlen : (s.setDvalid false).operand ≤ (s.setDvalid false).maxLen := h
    rw [dbuildBody, if_neg (Nat.not_lt.2 hlen), denseBuild_answers .buf hlen]
    rfl
  rw [exec, execDbuild, hbody, concludeBuild]

/-- Settles O11: the reset event's state, and what every query and `DBUILD` do in it. -/
theorem resetEventGivesTheResetState : Obligations.ResetEventGivesTheResetState := by
  intro s rest hs
  refine ⟨_, step_reset hs, rfl, rfl, rfl, rfl, rfl, rfl, rfl, rfl, rfl, fun m a => ?_, fun r hr => ?_,
    fun i hi v => ?_, fun v hle hv => ?_⟩
  · cases m <;> rfl
  · have hgated (x : Nat) : gated false x = 0 := rfl
    simp only [List.mem_cons, List.not_mem_nil, or_false] at hr
    rcases hr with rfl | rfl | rfl | rfl | rfl | rfl | rfl <;>
      simp only [hostRead, dvalid_resetEvent, svalid_resetEvent, hgated]
  · refine ⟨_, _, exec_notBuilt ?_⟩
    simp only [List.mem_cons, List.not_mem_nil, or_false] at hi ⊢
    simp only [dvalid_ask, dvalid_resetEvent, svalid_ask, svalid_resetEvent, and_true]
    tauto
  · have hoperand : ((resetEvent { s with inputs := rest }).ask v).operand = v := by
      exact Nat.mod_eq_of_lt hv
    exact ⟨_, exec_dbuild_of_le (by rw [hoperand]; exact hle), rfl, hoperand⟩

/-- Settles O48: after reset no byte is listed and no flag is set, and the capacity's type carries R6's bound. -/
theorem resetMeetsTheInvariant : Obligations.ResetMeetsTheInvariant := by
  refine ⟨rfl, rfl, rfl, rfl, rfl, rfl, ?_, denseInv_of_invalid (by decide), sparseInv_of_invalid (by decide)⟩
  exact
    { bufBytes_le := Nat.le_of_lt_succ Config.bufBytes.isLt
      buf_wf := rfl
      hbuf_wf := rfl
      low_wf := rfl
      buf_range := nofun
      hbuf_range := nofun
      low_range := nofun
      sdegen_svalid := fun _ => by decide }

/-! ## A query's answer depends on the operand and the structures alone (O46) -/

section SameAnswers
variable {s t : State} (h : KeepsStructures s t)
include h

theorem KeepsStructures.readByte_eq (m : ByteMemory) (a : Nat) : readByte m a t = readByte m a s := by
  rw [readByte, h.bufBytes, h.peek, readByte]

theorem KeepsStructures.readBit_eq (m : ByteMemory) (o : Nat) : readBit m o t = readBit m o s := by
  rw [readBit, h.readByte_eq, readBit]

theorem KeepsStructures.lowGet_eq (l r : Nat) : lowGet l r t = lowGet l r s := by
  simp only [lowGet, h.readBit_eq]

theorem KeepsStructures.denseRank1_eq (c : DenseContext) (pos : Nat) : denseRank1 c pos t = denseRank1 c pos s := by
  simp only [denseRank1, h.readByte_eq]

theorem KeepsStructures.scanBits_eq (src : Source) (v : Bool) (rank n p count : Nat) :
    scanBits src v rank t n p count = scanBits src v rank s n p count := by
  induction n generalizing p count with
  | zero => rfl
  | succ n ih => simp only [scanBits, h.readBit_eq, ih]

theorem KeepsStructures.denseSelect_eq (c : DenseContext) (rank : Nat) (v : Bool) :
    denseSelect c rank v t = denseSelect c rank v s := by
  simp only [denseSelect, h.scanBits_eq]

theorem KeepsStructures.sparseWalk_eq (l highRank0 pos : Nat) (src : Source) (fuel offset n : Nat) :
    sparseWalk l highRank0 pos src t fuel offset n = sparseWalk l highRank0 pos src s fuel offset n := by
  induction fuel generalizing offset n with
  | zero => rfl
  | succ fuel ih => simp only [sparseWalk, h.readBit_eq, h.lowGet_eq, ih]

theorem KeepsStructures.sparseRank1General_eq (v : SparseContext) (pos : Nat) :
    sparseRank1General v pos t = sparseRank1General v pos s := by
  simp only [sparseRank1General, sparseWalkStart, h.denseSelect_eq, h.sparseWalk_eq]

theorem KeepsStructures.sparseSelect1General_eq (v : SparseContext) (rank : Nat) :
    sparseSelect1General v rank t = sparseSelect1General v rank s := by
  simp only [sparseSelect1General, h.denseSelect_eq, h.lowGet_eq]

/-- In two states with the same structures and operand a query ends with the same answer or failure (R37, R53). -/
theorem KeepsStructures.exec_readsOnly_eq (harg : t.arg0 = s.arg0) {i : Instr} (hi : readsOnly i = true) :
    ∃ r, exec i s = conclude r s ∧ exec i t = conclude r t := by
  have hop : t.operand = s.operand := congrArg BitVec.toNat harg
  cases i with
  | dbuild | sbuild => cases hi
  | popcnt8 => exact ⟨_, rfl, by rw [exec, execPopcnt8, hop]⟩
  | log2floor => exact ⟨_, rfl, by rw [exec, execLog2floor, hop]⟩
  | log2ceil => exact ⟨_, rfl, by rw [exec, execLog2ceil, hop]⟩
  | drank1 => exact ⟨_, rfl, by rw [exec, execDrank1, h.dvalid, h.dv, hop, h.denseRank1_eq]⟩
  | dselect1 => exact ⟨_, rfl, by rw [exec, execDselect1, h.dvalid, h.dv, hop, h.denseSelect_eq]⟩
  | dselect0 => exact ⟨_, rfl, by rw [exec, execDselect0, h.dvalid, h.dv, hop, h.denseSelect_eq]⟩
  | srank1 =>
    exact ⟨_, rfl, by rw [exec, execSrank1, h.svalid, h.sv, hop, h.denseRank1_eq, h.sparseRank1General_eq]⟩
  | sselect1 =>
    exact ⟨_, rfl, by rw [exec, execSselect1, h.svalid, h.sv, hop, h.denseSelect_eq, h.sparseSelect1General_eq]⟩

end SameAnswers

/-- Settles O46: the first query changes nothing that the second one's answer depends on. -/
theorem queryOrderDoesNotMatter : Obligations.QueryOrderDoesNotMatter := by
  intro s t a i j v hi hj hfirst hsecond
  have frame := exec_readsOnly_frame hi hfirst
  have keeps : KeepsStructures (s.ask v) (t.ask v) := by
    rw [frame]
    exact ⟨rfl, rfl, rfl, rfl, rfl, rfl, rfl, rfl⟩
  obtain ⟨r, hs, ht⟩ := keeps.exec_readsOnly_eq rfl hj
  rw [hs] at hsecond
  rw [ht]
  obtain ⟨x, rfl, rfl⟩ | ⟨e, rfl, rfl⟩ := conclude_next.1 hsecond
  · exact ⟨_, rfl, rfl, fun _ => rfl⟩
  · exact ⟨_, rfl, rfl, nofun⟩

end Sys2Proof.Machine

/-! PROOFS. The statements of 20_memory.md: `VB` masks the padding (O16), and a build depends on the valid bits alone
(O21), since `DenseOk` and `SparseOk` fix every field of what it makes. -/

namespace Sys2Proof.Machine

/-- Settles O16: `VB` reads the byte and keeps the bits below the length. -/
theorem validByteClearsThePadding : Obligations.ValidByteClearsThePadding :=
  fun _ _ _ _ hb hlen => validByte_answers hb hlen

/-! ## What the bits below the length fix (20_memory.md R42) -/

section SameBits
variable {s t : State} {src : Source} {n : Nat} (same : ∀ o, o < n → t.bitAt src.memory o = s.bitAt src.memory o)
include same

theorem ones_eq_of_bits {b : Nat} (hb : b ≤ n) (a : Nat) : t.ones src a b = s.ones src a b := by
  refine List.countP_congr fun o ho => ?_
  rw [List.mem_range'_1] at ho
  rw [same o (by omega)]

theorem setPosition_eq_of_bits (i : Nat) : t.setPosition src n i = s.setPosition src n i := by
  have positions : t.setPositions src n = s.setPositions src n :=
    List.filter_congr fun o ho => same o (List.mem_range.1 ho)
  rw [State.setPosition, positions, State.setPosition]

theorem specContext_eq_of_bits : specContext t src n = specContext s src n := by
  have large : ∀ k ∈ List.range (n / 65536 + 1), t.ones src 0 (65536 * k) = s.ones src 0 (65536 * k) := by
    intro k hk
    rw [List.mem_range] at hk
    exact ones_eq_of_bits same (by omega) 0
  have small : ∀ j ∈ List.range (n / 128 + 1),
      t.ones src (65536 * (j / 512)) (128 * j) = s.ones src (65536 * (j / 512)) (128 * j) := by
    intro j hj
    rw [List.mem_range] at hj
    exact ones_eq_of_bits same (by omega) _
  rw [specContext, specContext, List.map_congr_left large, List.map_congr_left small,
    ones_eq_of_bits same (Nat.le_refl n)]

end SameBits

/-- Two built contexts over the same bits are equal. -/
theorem DenseOk.eq_of_bits {s t : State} {c d : DenseContext} (ok : DenseOk s c) (ok' : DenseOk t d)
    (hsrc : d.src = c.src) (hlen : d.length = c.length)
    (same : ∀ o, o < c.length → t.bitAt c.src.memory o = s.bitAt c.src.memory o) : d = c := by
  rw [eq_specContext ok, eq_specContext ok', hsrc, hlen, specContext_eq_of_bits same]

/-- A built `SV` holds the parameters of R143 for its weight and last set position. -/
theorem SparseOk.eq_sparseParameters {s : State} (ok : SparseOk s) :
    s.sv = sparseParameters s.sv.length { weight := s.sv.weight, lastSetPos := s.sv.lastSetPos } s.sv.degenerate
      s.sv.inner := by
  rw [sparseParameters, ← ok.lowLength_eq, ← ok.highLength_eq, ← ok.lowMask_eq]

/-- Two built sparse structures over the same bits of `BUF` are equal: the encoding is a function of the set positions
(44_sparse.md R146). -/
theorem SparseOk.sv_eq_of_bits {s t : State} (ok : SparseOk s) (ok' : SparseOk t) (hlen : t.sv.length = s.sv.length)
    (same : ∀ o, o < s.sv.length → t.bitAt .buf o = s.bitAt .buf o) : t.sv = s.sv := by
  have position (i : Nat) : t.setPosition .buf s.sv.length i = s.setPosition .buf s.sv.length i :=
    setPosition_eq_of_bits (src := .buf) same i
  have weight : t.sv.weight = s.sv.weight := by
    rw [ok'.weight_eq, hlen, ones_eq_of_bits (src := .buf) same (Nat.le_refl _), ok.weight_eq]
  have last : t.sv.lastSetPos = s.sv.lastSetPos := by
    rw [ok'.lastSetPos_eq, hlen, weight, position, ok.lastSetPos_eq]
  have low : t.sv.lowLength = s.sv.lowLength := by
    rw [ok'.lowLength_eq, hlen, weight, ok.lowLength_eq]
  have form : t.sv.degenerate = s.sv.degenerate := by
    rw [ok'.degenerate_eq, low, ok.degenerate_eq]
  have inner : t.sv.inner = s.sv.inner := by
    cases hform : s.sv.degenerate with
    | true =>
      obtain ⟨hsrc, hinner⟩ := ok.degenerate_inner hform
      obtain ⟨hsrc', hinner'⟩ := ok'.degenerate_inner (form.trans hform)
      refine ok.inner_ok.eq_of_bits ok'.inner_ok (by rw [hsrc', hsrc]) (by rw [hinner', hlen, hinner]) ?_
      rw [hinner, hsrc]
      exact same
    | false =>
      obtain ⟨hsrc, hinner⟩ := ok.general_inner hform
      obtain ⟨hsrc', hinner'⟩ := ok'.general_inner (form.trans hform)
      have hinnerLen : t.sv.inner.length = s.sv.inner.length := by rw [hinner', weight, last, low, hinner]
      refine ok.inner_ok.eq_of_bits ok'.inner_ok (by rw [hsrc', hsrc]) hinnerLen fun o ho => ?_
      rw [hsrc]
      refine (ok'.high_bits (form.trans hform) o (by rw [hinnerLen]; exact ho)).trans ?_
      rw [hlen, weight, low]
      simp only [position]
      exact (ok.high_bits hform o ho).symm
  rw [ok'.eq_sparseParameters, hlen, weight, last, form, inner, ← ok.eq_sparseParameters]

/-! ## How a build ends, by the length and the bits of `BUF` (41_dense_index.md R95, 44_sparse.md R140) -/

theorem dbuild_status {s t : State} (h : exec .dbuild s = .next t) :
    t.status = if s.maxLen < s.operand then .failed .capacity else .ok := by
  obtain ⟨u, hu, rfl⟩ | ⟨e, he, rfl⟩ := concludeBuild_next.1 h
  · obtain ⟨hlen, -⟩ := dbuildBody_eq_ok hu
    exact (if_neg (Nat.not_lt.2 hlen)).symm
  · obtain ⟨rfl, hlen⟩ := dbuildBody_raised he
    exact (if_pos hlen).symm

theorem dbuild_dv {s t : State} (h : exec .dbuild s = .next t) (hok : t.status = .ok) :
    t.dv = specContext s .buf s.operand := by
  obtain ⟨u, hu, rfl⟩ | ⟨e, -, rfl⟩ := concludeBuild_next.1 h
  · obtain ⟨hlen, c, hc, rfl⟩ := dbuildBody_eq_ok hu
    exact denseBuild_eq_ok hlen hc
  · cases hok

/-- The weight that pass 1 answers (44_sparse.md R142). -/
theorem sparsePassOne_weight {s : State} {n : Nat} {p : PassOneVars} (hn : n ≤ s.maxLen)
    (h : sparsePassOne n s = .ok p) : p.weight = s.ones .buf 0 n := by
  obtain ⟨q, hq, hweight, -⟩ := sparsePassOne_answers hn
  obtain rfl := Except.ok.inj (h.symm.trans hq)
  exact hweight

theorem sbuild_status {s t : State} (h : exec .sbuild s = .next t) :
    t.status = if s.maxLen < s.operand then .failed .capacity
      else if s.ones .buf 0 s.operand = 0 then .failed .zeroWeight else .ok := by
  obtain ⟨u, hu, rfl⟩ | ⟨e, he, rfl⟩ := concludeBuild_next.1 h
  · obtain ⟨hlen, p, hp, hne, -⟩ := sbuildBody_eq_ok hu
    rw [sparsePassOne_weight hlen hp] at hne
    exact ((if_neg (Nat.not_lt.2 hlen)).trans (if_neg hne)).symm
  · obtain ⟨rfl, hlen⟩ | ⟨rfl, hlen, p, hp, hzero⟩ := sbuildBody_raised he
    · exact (if_pos hlen).symm
    · rw [sparsePassOne_weight hlen hp] at hzero
      exact ((if_neg (Nat.not_lt.2 hlen)).trans (if_pos hzero)).symm

/-- A successful `SBUILD` leaves a true structure of the operand's length, and `BUF` as it was. -/
theorem sbuild_sparseOk {s t : State} (h : exec .sbuild s = .next t) (hok : t.status = .ok) :
    SparseOk t ∧ t.sv.length = s.operand ∧ ∀ o, t.bitAt .buf o = s.bitAt .buf o := by
  obtain ⟨u, hu, rfl⟩ | ⟨e, -, rfl⟩ := concludeBuild_next.1 h
  · obtain ⟨frame, -, -, hlen, -⟩ := sbuildBody_frame hu
    have ok : SparseOk u := sparseOk_sbuildBody (by simp) hu
    exact ⟨SparseOk_congr (s := u) rfl rfl rfl (fun _ _ => rfl) ok, hlen,
      fun o => (congrArg (fun v : State => v.bitAt .buf o) frame :)⟩
  · cases hok

/-- Settles O21: the status and the structure are functions of the capacity, the length and the bits below it. -/
theorem buildsIgnoreThePadding : Obligations.BuildsIgnoreThePadding := by
  intro s s' t t' hcap harg same
  replace same : ∀ o, o < s.operand → s'.bitAt .buf o = s.bitAt .buf o := same
  have hmax : s'.maxLen = s.maxLen := congrArg (8 * ·) hcap
  have hoperand : s'.operand = s.operand := congrArg BitVec.toNat harg
  refine ⟨fun h h' => ?_, fun h h' => ?_⟩
  · have status : t'.status = t.status := by rw [dbuild_status h', hmax, hoperand, dbuild_status h]
    refine ⟨status, fun hok => ?_⟩
    rw [dbuild_dv h' (status.trans hok), hoperand, specContext_eq_of_bits (src := .buf) same, dbuild_dv h hok]
  · have weight : s'.ones .buf 0 s.operand = s.ones .buf 0 s.operand :=
      ones_eq_of_bits (src := .buf) same (Nat.le_refl _) 0
    have status : t'.status = t.status := by rw [sbuild_status h', hmax, hoperand, weight, sbuild_status h]
    refine ⟨status, fun hok => ?_⟩
    obtain ⟨ok, hlen, hbuf⟩ := sbuild_sparseOk h hok
    obtain ⟨ok', hlen', hbuf'⟩ := sbuild_sparseOk h' (status.trans hok)
    refine ok.sv_eq_of_bits ok' (by rw [hlen', hoperand, hlen]) fun o ho => ?_
    rw [hbuf', hbuf, same o (by rw [hlen] at ho; exact ho)]

end Sys2Proof.Machine

/-! PROOFS. The statements of 30_encoding.md: the decoder undoes the encoder and accepts nothing else, so the legal words are
the ten encodings (O1, O2), and every other word is answered by `raise` (O3). -/

namespace Sys2Proof.Machine

/-! ## The decoder and the encoder (30_encoding.md R61) -/

theorem encoding_statement (i : Instr) : Laws.Encoding.Statement i :=
  match i with
  | .popcnt8 => Laws.Encoding.popcnt8
  | .log2floor => Laws.Encoding.log2floor
  | .log2ceil => Laws.Encoding.log2ceil
  | .dbuild => Laws.Encoding.dbuild
  | .drank1 => Laws.Encoding.drank1
  | .dselect1 => Laws.Encoding.dselect1
  | .dselect0 => Laws.Encoding.dselect0
  | .sbuild => Laws.Encoding.sbuild
  | .srank1 => Laws.Encoding.srank1
  | .sselect1 => Laws.Encoding.sselect1

@[simp] theorem wellFormed_eq_true (i : Instr) : i.wellFormed = true := by
  cases i <;> rfl

@[simp] theorem decode_encode (i : Instr) : decode (encode i) = .ok i := by
  obtain ⟨-, -, hdecode⟩ := encoding_statement i (wellFormed_eq_true i)
  exact hdecode

theorem decode_eq_ok {w : BitVec 32} {i : Instr} : decode w = .ok i ↔ w = encode i := by
  constructor
  · exact eq_encode_of_decode
  · rintro rfl
    exact decode_encode i

/-- Settles O1: each word is, bit for bit, the encoding of its command. -/
theorem tenCommandWordsDecode : Obligations.TenCommandWordsDecode :=
  ⟨decode_encode .popcnt8, decode_encode .log2floor, decode_encode .log2ceil, decode_encode .dbuild,
    decode_encode .drank1, decode_encode .dselect1, decode_encode .dselect0, decode_encode .sbuild,
    decode_encode .srank1, decode_encode .sselect1⟩

/-! ## The ten command words (30_encoding.md R61, R64) -/

/-- The ten words are those of the encodings. -/
theorem mem_commandWords {w : BitVec 32} :
    w.toNat ∈ [0x01, 0x02, 0x03, 0x10, 0x11, 0x12, 0x13, 0x20, 0x21, 0x22] ↔ ∃ i, w = encode i := by
  constructor
  · intro hw
    change w.toNat ∈ opcodeTable.map fun row => (encode row.2).toNat at hw
    obtain ⟨row, -, hrow⟩ := List.mem_map.1 hw
    exact ⟨row.2, BitVec.eq_of_toNat_eq hrow.symm⟩
  · rintro ⟨i, rfl⟩
    cases i <;> decide

/-- Settles O2: the decoder undoes the encoder and accepts no other word. -/
theorem decodeAndEncodeAgreeOnEveryWord : Obligations.DecodeAndEncodeAgreeOnEveryWord := by
  refine ⟨fun w i _ => decode_eq_ok, fun w => ?_⟩
  simp only [decode_eq_ok]
  exact mem_commandWords.symm

/-! ## Illegal words (30_encoding.md R64) -/

/-- A word's number by the two fields of format `C` (30_encoding.md R60). -/
theorem toNat_eq_fields (w : BitVec 32) :
    w.toNat = 2 ^ 8 * (w.extractLsb' 8 24).toNat + (w.extractLsb' 0 8).toNat := by
  have hlt := w.isLt
  simp only [BitVec.extractLsb'_toNat, Nat.shiftRight_eq_div_pow]
  omega

theorem exists_decode_eq_error {w : BitVec 32} : (∃ x, decode w = .error x) ↔ ¬∃ i, w = encode i := by
  simp only [← decode_eq_ok]
  cases decode w <;> simp

/-- Settles O3: a word with upper bits 0 is its opcode, any other is above the table, and `raise` answers a rejected word. -/
theorem illegalWordChangesOnlyCmdStatusRes : Obligations.IllegalWordChangesOnlyCmdStatusRes := by
  refine ⟨fun w => ?_, fun s w rest hs hw => ?_⟩
  · have hfields := toNat_eq_fields w
    have hopcode := (w.extractLsb' 0 8).isLt
    simp only [List.mem_cons, List.not_mem_nil, or_false]
    by_cases hupper : w.extractLsb' 8 24 = 0
    · replace hfields : w.toNat = (w.extractLsb' 0 8).toNat := by simpa [hupper] using hfields
      simp only [hupper, ne_eq, not_true_eq_false, false_or]
      omega
    · have hpos : (w.extractLsb' 8 24).toNat ≠ 0 := fun hzero => hupper (BitVec.eq_of_toNat_eq hzero)
      exact iff_of_true (by omega) (.inl hupper)
  · obtain ⟨x, hx⟩ := exists_decode_eq_error.2 (mt mem_commandWords.2 hw)
    refine ⟨raise .illegalCommand { s with inputs := rest, cmd := w }, ?_, rfl, rfl⟩
    rw [step_command hs, issueCommand, hx]

end Sys2Proof.Machine

/-! PROOFS. The statements of 40_bit_primitives.md: the population count counts the 1 bits of a byte (O13), and the two
logarithms are adjoint to the powers of 2, from below (O14) and from above (O15). -/

namespace Sys2Proof.Machine

/-! ## The three functions (40_bit_primitives.md R80, R82, R83) -/

/-- R80's sum of the eight bits counts the 1 bits. -/
theorem popcount8_eq_countP (b : Byte) : popcount8 b = (List.range 8).countP fun k => b.getLsbD k := by
  have ite_eq_toNat (c : Bool) : (if c = true then 1 else 0) = c.toNat := by cases c <;> rfl
  have hrange : List.range 8 = [7, 6, 5, 4, 3, 2, 1, 0].reverse := rfl
  rw [hrange, List.countP_reverse]
  simp only [List.countP_cons, List.countP_nil, ite_eq_toNat, popcount8, Nat.zero_add]

/-- The low-order byte of a word, counted without cutting the word. -/
theorem popcount8_ofNat_toNat (x : Word) :
    popcount8 (BitVec.ofNat 8 x.toNat) = (List.range 8).countP fun k => x.getLsbD k := by
  rw [popcount8_eq_countP]
  refine List.countP_congr fun k hk => ?_
  have hlt : k < 8 := List.mem_range.1 hk
  rw [BitVec.ofNat_toNat, BitVec.getLsbD_setWidth, decide_eq_true hlt, Bool.true_and]

/-- R82: the exponents of the powers of 2 up to `x` are those up to `log2Floor x`. -/
theorem le_log2Floor_iff {x : Nat} (hx : x ≠ 0) (d : Nat) : d ≤ log2Floor x ↔ 2 ^ d ≤ x :=
  Nat.le_log2 hx

/-- R83: the exponents of the powers of 2 from `x` on are those from `log2Ceil x` on. -/
theorem log2Ceil_le_iff (x d : Nat) : log2Ceil x ≤ d ↔ x ≤ 2 ^ d := by
  have hpow : 0 < 2 ^ d := Nat.two_pow_pos d
  unfold log2Ceil
  split
  · exact iff_of_true (Nat.zero_le d) (by omega)
  · calc log2Floor (x - 1) + 1 ≤ d
      _ ↔ x - 1 < 2 ^ d := Nat.log2_lt (by omega)
      _ ↔ x ≤ 2 ^ d := by omega

/-! ## The three commands (40_bit_primitives.md R81, R84, R85) -/

theorem exec_popcnt8_of_le {s : State} (h : s.operand ≤ 255) :
    exec .popcnt8 s = .next (finish (popcount8 (BitVec.ofNat 8 s.operand)) s) := by
  rw [exec, execPopcnt8, if_neg (Nat.not_lt.2 h), conclude]

theorem exec_popcnt8_of_lt {s : State} (h : 255 < s.operand) : exec .popcnt8 s = .next (raise .illegalOperand s) := by
  rw [exec, execPopcnt8, if_pos h, conclude]

theorem exec_log2floor_of_ne_zero {s : State} (h : s.operand ≠ 0) :
    exec .log2floor s = .next (finish (log2Floor s.operand) s) := by
  rw [exec, execLog2floor, if_neg h, conclude]

theorem exec_log2floor_of_eq_zero {s : State} (h : s.operand = 0) :
    exec .log2floor s = .next (raise .illegalOperand s) := by
  rw [exec, execLog2floor, if_pos h, conclude]

theorem exec_log2ceil_of_ne_zero {s : State} (h : s.operand ≠ 0) :
    exec .log2ceil s = .next (finish (log2Ceil s.operand) s) := by
  rw [exec, execLog2ceil, if_neg h, conclude]

theorem exec_log2ceil_of_eq_zero {s : State} (h : s.operand = 0) :
    exec .log2ceil s = .next (raise .illegalOperand s) := by
  rw [exec, execLog2ceil, if_pos h, conclude]

/-- Settles O14: `LOG2FLOOR` answers `log2Floor`, which is adjoint to the powers of 2. -/
theorem log2FloorIsTheLargestPowerBelow : Obligations.Log2FloorIsTheLargestPowerBelow := by
  refine fun s => ⟨fun hne => ?_, fun hzero => ⟨_, _, exec_log2floor_of_eq_zero hzero⟩⟩
  have adjoint := le_log2Floor_iff hne
  have hlt : log2Floor s.arg0.toNat < 64 := log2Floor_lt s.arg0.isLt
  exact ⟨_, exec_log2floor_of_ne_zero hne, Nat.le_of_lt_succ hlt, (adjoint _).1 (Nat.le_refl _),
    fun d => (adjoint d).2⟩

/-- Settles O15: `LOG2CEIL` answers `log2Ceil`, which is adjoint to the powers of 2. -/
theorem log2CeilIsTheSmallestPowerAbove : Obligations.Log2CeilIsTheSmallestPowerAbove := by
  refine fun s => ⟨fun hne => ?_, fun hzero => ⟨_, _, exec_log2ceil_of_eq_zero hzero⟩⟩
  have adjoint := log2Ceil_le_iff s.arg0.toNat
  exact ⟨_, exec_log2ceil_of_ne_zero hne, log2Ceil_le s.arg0.isLt, (adjoint _).1 (Nat.le_refl _),
    fun d => (adjoint d).2⟩

/-- Settles O13: `POPCNT8` answers the population count of the operand's low-order byte, which is the whole of a byte. -/
theorem popcnt8CountsTheOnesOfAByte : Obligations.Popcnt8CountsTheOnesOfAByte := by
  refine fun s => ⟨fun hbyte => ?_, fun hlt => ⟨_, _, exec_popcnt8_of_lt hlt⟩⟩
  rw [exec_popcnt8_of_le hbyte, State.operand, popcount8_ofNat_toNat]
  rfl

end Sys2Proof.Machine

/-! PROOFS. The statements of 41_dense_index.md: the build answers the context R23 to R26 describe (O17, O18), and rank
on it answers `Ones` before the position (O22), from which the properties of rank follow (O23). -/

namespace Sys2Proof.Machine

/-! ## The build (41_dense_index.md R92, R95) -/

/-- The empty vector's context, as R92 lists it. -/
theorem specContext_zero (s : State) (src : Source) : specContext s src 0 =
    { src := src, length := 0, nbytes := 0, nlarge := 1, nsmall := 1, large := [0], small := [0], rank1Max := 0 } := by
  simp [specContext]

/-- Settles O17: the build answers the described context for every length within the capacity, and 0 is one. -/
theorem denseBuildCannotFail : Obligations.DenseBuildCannotFail := by
  refine ⟨fun s src length hlen => ⟨_, denseBuild_answers src hlen⟩, fun s src => ?_⟩
  rw [denseBuild_answers src (Nat.zero_le _), specContext_zero]

/-- `DBUILD` of a length over the capacity (41_dense_index.md R95). -/
theorem exec_dbuild_of_lt {s : State} (h : s.maxLen < s.operand) :
    exec .dbuild s = .next (raise .capacity (s.setDvalid false)) := by
  have hbody : dbuildBody (s.setDvalid false) = .error (.raised .capacity) := if_pos h
  rw [exec, execDbuild, hbody, concludeBuild]

/-- `DVALID` cleared and set again is `DVALID` set (10_state.md R18). -/
theorem setFlag_dvalid_rebuilt (f : BitVec 3) : setFlag 0 true (setFlag 0 false f) = f ||| 1#3 := by
  revert f; decide

/-- `DVALID` cleared, the other two flags kept (10_state.md R18). -/
theorem setFlag_dvalid_cleared (f : BitVec 3) : setFlag 0 false f = f &&& 6#3 := rfl

/-- Settles O18: within the capacity `DBUILD` stores the described context, above it `DBUILD` raises `Capacity`. -/
theorem dbuildBuildsTheIndexOrRefuses : Obligations.DbuildBuildsTheIndexOrRefuses := by
  refine fun s => ⟨fun hlen => ⟨specContext s .buf s.operand, ?_, rfl, rfl, specContext_ok hlen⟩, fun hlen => ?_⟩
  · rw [← setFlag_dvalid_rebuilt]
    exact exec_dbuild_of_le hlen
  · rw [← setFlag_dvalid_cleared]
    exact ⟨_, _, exec_dbuild_of_lt hlen⟩

/-! ## The command `DRANK1` (41_dense_index.md R96, R97) -/

section Drank1
variable {s : State} (valid : s.dvalid = true)
include valid

theorem exec_drank1_of_lt (h : s.dv.length < s.operand) : exec .drank1 s = .next (raise .outOfRange s) := by
  rw [exec, execDrank1, if_pos valid, denseRank1, if_pos h, conclude]

theorem exec_drank1_of_le (ok : DenseOk s s.dv) (h : s.operand ≤ s.dv.length) :
    exec .drank1 s = .next (finish (s.ones s.dv.src 0 s.operand) s) := by
  rw [exec, execDrank1, if_pos valid, denseRank1_answers ok h, conclude]

end Drank1

/-- Settles O22: one rule of `DRANK1` for each case. -/
theorem drank1CountsTheOnesBeforePos : Obligations.Drank1CountsTheOnesBeforePos := fun _ =>
  ⟨fun invalid => ⟨_, _, exec_notBuilt (.inl ⟨by decide, invalid⟩)⟩,
    fun valid hlt => ⟨_, _, exec_drank1_of_lt valid hlt⟩,
    fun valid ok hle => exec_drank1_of_le valid ok hle⟩

/-! ## The properties of rank (41_dense_index.md R98) -/

theorem operand_ask {s : State} {v : Nat} (h : v < 2 ^ 64) : (s.ask v).operand = v :=
  Nat.mod_eq_of_lt h

/-- R6's bound on the capacity lets a host ask for one position past a context's length. -/
theorem DenseOk.length_succ_lt {s : State} {c : DenseContext} (ok : DenseOk s c) (hbytes : s.bufBytes ≤ 2 ^ 60) :
    c.length + 1 < 2 ^ 64 := by
  have hlen := ok.length_le_bits
  omega

/-- Asked for a position of a built `DV`, `DRANK1` answers the ones before it. -/
theorem answers_drank1 {s : State} (hbytes : s.bufBytes ≤ 2 ^ 60) (valid : s.dvalid = true) (ok : DenseOk s s.dv)
    {pos : Nat} (hpos : pos ≤ s.dv.length) : Answers .drank1 (s.ask pos) (s.ones s.dv.src 0 pos) := by
  have hop : (s.ask pos).operand = pos := operand_ask (by have := ok.length_succ_lt hbytes; omega)
  have ok' : DenseOk (s.ask pos) s.dv := DenseOk_congr (s := s) rfl (fun a => ask_peek s pos _ a) ok
  have hrun := exec_drank1_of_le (s := s.ask pos) valid ok' (by rw [hop]; exact hpos)
  rwa [hop, ask_dv, ones_congr (fun a => ask_peek s pos _ a)] at hrun

/-- Settles O23: rank is `Ones` before the position, which is empty at 0, the total at the end, and adds up. -/
theorem denseRankIsMonotoneAndAdditive : Obligations.DenseRankIsMonotoneAndAdditive := by
  intro s hbytes valid ok
  have rank {pos : Nat} (hpos : pos ≤ s.dv.length) := answers_drank1 hbytes valid ok hpos
  have bound {pos : Nat} (hpos : pos ≤ s.dv.length) : s.ones s.dv.src 0 pos ≤ s.dv.length :=
    (ones_le s s.dv.src 0 pos).trans hpos
  refine ⟨?_, ?_, ?_, fun pos hpos => ?_, fun pos _ hpos => ?_⟩
  · rw [← ones_self s s.dv.src 0]
    exact rank (Nat.zero_le _)
  · rw [ok.rank1Max_eq]
    exact rank (Nat.le_refl _)
  · have hop : (s.ask (s.dv.length + 1)).operand = s.dv.length + 1 := operand_ask (ok.length_succ_lt hbytes)
    exact ⟨_, _, exec_drank1_of_lt (s := s.ask _) valid (by rw [hop]; exact Nat.lt_succ_self _)⟩
  · exact ⟨_, _, bound hpos.le, bound hpos, rank hpos.le, rank hpos, ones_succ s s.dv.src (Nat.zero_le pos)⟩
  · have hblock : 65536 * (pos / 65536) ≤ pos := Nat.mul_div_le pos 65536
    exact ⟨_, _, bound (hblock.trans hpos), bound hpos, rank (hblock.trans hpos), rank hpos,
      (ones_add s s.dv.src (Nat.zero_le _) hblock).symm⟩

end Sys2Proof.Machine

/-! PROOFS. The statements of 42_dense_select.md: both selects answer the one position that `DenseSelect` finds (O24, O25),
which is where rank came from (O28) and lies in the blocks the reference search finds (O26); no select on a built context
runs off its window (O27). -/

namespace Sys2Proof.Machine

/-! ## The commands `DSELECT1` and `DSELECT0` (42_dense_select.md R110, R118) -/

/-- The command that selects among the `v`-bits of `DV`. -/
def selectCommand (v : Bool) : Instr := if v then .dselect1 else .dselect0

theorem exec_selectCommand {s : State} (valid : s.dvalid = true) (v : Bool) :
    exec (selectCommand v) s = conclude (denseSelect s.dv s.operand v s) s := by
  cases v with
  | true => simp only [selectCommand, if_pos, exec, execDselect1, valid]
  | false => simp only [selectCommand, Bool.false_eq_true, if_false, exec, execDselect0, valid, if_true]

theorem denseSelect_of_ge {c : DenseContext} {rank : Nat} {v : Bool} (h : total c v ≤ rank) (s : State) :
    denseSelect c rank v s = .error (.raised .rankOutOfRange) :=
  if_neg (Nat.not_lt.2 h)

section Dselect
variable {s : State} (valid : s.dvalid = true) (v : Bool)
include valid

theorem exec_selectCommand_of_ge (h : total s.dv v ≤ s.operand) :
    exec (selectCommand v) s = .next (raise .rankOutOfRange s) := by
  rw [exec_selectCommand valid, denseSelect_of_ge h, conclude]

theorem exec_selectCommand_of_lt (ok : DenseOk s s.dv) (h : s.operand < total s.dv v) :
    ∃ p, exec (selectCommand v) s = .next (finish p s) ∧ p < s.dv.length ∧ s.bitAt s.dv.src.memory p = v ∧
      s.count s.dv.src v 0 p = s.operand := by
  obtain ⟨p, hp, found⟩ := denseSelect_answers ok v h
  exact ⟨p, by rw [exec_selectCommand valid, hp, conclude], found⟩

end Dselect

/-- Settles O24: one rule of the select command for each case, at bit value 1. -/
theorem dselect1FindsTheRankthOne : Obligations.Dselect1FindsTheRankthOne := fun _ =>
  ⟨fun invalid => ⟨_, _, exec_notBuilt (.inl ⟨by decide, invalid⟩)⟩,
    fun valid hge => ⟨_, _, exec_selectCommand_of_ge valid true hge⟩,
    fun valid ok hlt => exec_selectCommand_of_lt valid true ok hlt⟩

/-- Settles O25: one rule of the select command for each case, at bit value 0. -/
theorem dselect0FindsTheRankthZero : Obligations.Dselect0FindsTheRankthZero := fun _ =>
  ⟨fun invalid => ⟨_, _, exec_notBuilt (.inl ⟨by decide, invalid⟩)⟩,
    fun valid hge => ⟨_, _, exec_selectCommand_of_ge valid false hge⟩,
    fun valid ok hlt => exec_selectCommand_of_lt valid false ok hlt⟩

/-! ## The number of `v`-bits before a position -/

theorem count_mono (s : State) (src : Source) (v : Bool) : Monotone (s.count src v 0) :=
  monotone_nat_of_le_succ fun p => by
    rw [count_succ]
    exact Nat.le_add_right _ _

theorem count_le (s : State) (src : Source) (v : Bool) (p : Nat) : s.count src v 0 p ≤ p := by
  cases v with
  | true => exact ones_le s src 0 p
  | false => exact Nat.sub_le p (s.ones src 0 p)

/-- A `v`-bit counts for every position after it. -/
theorem count_lt_of_bitAt {s : State} {src : Source} {v : Bool} {p n : Nat} (hbit : s.bitAt src.memory p = v)
    (hp : p < n) : s.count src v 0 p < s.count src v 0 n := by
  have hsucc := count_succ s src v p
  have hle := count_mono s src v (show p + 1 ≤ n from hp)
  rw [if_pos hbit] at hsucc
  omega

/-- No two `v`-bits have the same number of `v`-bits before them. -/
theorem eq_of_count_eq {s : State} {src : Source} {v : Bool} {p q : Nat} (hp : s.bitAt src.memory p = v)
    (hq : s.bitAt src.memory q = v) (h : s.count src v 0 p = s.count src v 0 q) : p = q := by
  rcases Nat.lt_trichotomy p q with hlt | heq | hlt
  · exact absurd h (count_lt_of_bitAt hp hlt).ne
  · exact heq
  · exact absurd h (count_lt_of_bitAt hq hlt).ne'

/-! ## The reference search (42_dense_select.md R116) -/

/-- The loop closes in on the index from which on `f` has reached the target. -/
theorem lowerBoundLoop_eq {f : Nat → Nat} {target fuel lo hi r : Nat} (hfuel : hi - lo ≤ fuel) (hlo : lo ≤ r)
    (hhi : r ≤ hi) (hf : ∀ i, lo ≤ i → i < hi → (target ≤ f i ↔ r ≤ i)) :
    lowerBoundLoop f target fuel lo hi = r := by
  induction fuel generalizing lo hi with
  | zero =>
    rw [lowerBoundLoop]
    omega
  | succ fuel ih =>
    rw [lowerBoundLoop]
    by_cases hne : lo < hi
    · have hmid := hf ((lo + hi) / 2) (by omega) (by omega)
      simp only [if_pos hne]
      by_cases hreached : target ≤ f ((lo + hi) / 2)
      · rw [if_pos hreached]
        exact ih (by omega) hlo (hmid.1 hreached) fun i hi' hi'' => hf i hi' (by omega)
      · have hbelow : (lo + hi) / 2 < r := Nat.lt_of_not_le fun h => hreached (hmid.2 h)
        rw [if_neg hreached]
        exact ih (by omega) hbelow hhi fun i hi' hi'' => hf i (by omega) hi''
    · rw [if_neg hne]
      omega

/-- Where `k` is the last index at which a monotone `f` is at most `rank`, the search for `rank + 1` ends just past it. -/
theorem lowerBound_eq_succ {f : Nat → Nat} (mono : Monotone f) {a b k rank : Nat} (hak : a ≤ k) (hkb : k < b)
    (hle : f k ≤ rank) (hnext : ∀ m, k < m → m < b → rank < f m) : lowerBound f a b (rank + 1) = k + 1 := by
  refine lowerBoundLoop_eq (Nat.le_refl _) (by omega) hkb fun i _ hib => ⟨fun hreached => ?_, fun hki => hnext i hki hib⟩
  by_contra hik
  have := mono (show i ≤ k by omega)
  omega

/-- Settles O26: the blocks of the `rank`-th `v`-bit are the last ones that begin with at most `rank` `v`-bits before
them, and the cumulative counts are monotone. -/
theorem binarySearchFindsTheSameBlocks : Obligations.BinarySearchFindsTheSameBlocks := by
  intro s c rank v ok _
  have hnlarge := ok.nlarge_eq
  have hnsmall := ok.nsmall_eq
  have mono (n : Nat) : Monotone fun m => s.count c.src v 0 (n * m) := fun _ _ h =>
    count_mono s c.src v (Nat.mul_le_mul_left n h)
  obtain ⟨k, hk, hkle, hkcount, hknext⟩ := selectLarge_answers ok v rank
  obtain ⟨j, hj, hjle, hjlt, hjge, hjcount, hjnext⟩ := selectSmall_answers ok v hkle hkcount
  refine ⟨k, j, hk, hj, ?_, ?_⟩
  · exact lowerBound_eq_succ (mono 65536) (Nat.zero_le k) (by omega) hkcount
      fun m hm hm' => hknext m hm (by omega)
  · exact lowerBound_eq_succ (mono 128) hjge (by omega) hjcount
      fun m hm hm' => hjnext m hm (by omega) (by omega)

/-! ## No select on a built context runs off its window (42_dense_select.md R117) -/

/-- `DenseBuild` reads every byte of its sequence, so what it answers is for a length within the capacity. -/
theorem denseBuild_length_le {s : State} {src : Source} {length : Nat} {c : DenseContext}
    (h : denseBuild src length s = .ok c) : length ≤ s.maxLen := by
  obtain ⟨v, hloop, -⟩ := bind_eq_ok.1 h
  have hbytes := forUp_keeps (fun i _ => i ≤ s.bufBytes) hloop (Nat.zero_le _) fun i _ _ _ _ _ hbody => by
    obtain ⟨_, hvalid, -⟩ := bind_eq_ok.1 hbody
    obtain ⟨_, hread, -⟩ := bind_eq_ok.1 hvalid
    exact (readByte_eq_ok.1 hread).1
  simp only [State.maxLen]
  omega

/-- `DenseSelect` on a built context answers, or fails with `RankOutOfRange`. -/
theorem denseSelect_stops {s : State} {c : DenseContext} (ok : DenseOk s c) {rank : Nat} {v : Bool} {e : Stop}
    (h : denseSelect c rank v s = .error e) : e = .raised .rankOutOfRange := by
  by_cases hrank : rank < total c v
  · obtain ⟨p, hp, -⟩ := denseSelect_answers ok v hrank
    rw [hp] at h
    cases h
  · rw [denseSelect_of_ge (Nat.le_of_not_lt hrank)] at h
    exact (Except.error.inj h).symm

/-- Settles O27: what `DenseBuild` gives is a built context, and there a select stops for one reason only. -/
theorem rankExceedsVectorNeverRaisedOnABuiltContext : Obligations.RankExceedsVectorNeverRaisedOnABuiltContext := by
  intro s src length c rank v hbuild hselect
  have hlen := denseBuild_length_le hbuild
  obtain rfl := denseBuild_eq_ok hlen hbuild
  cases denseSelect_stops (specContext_ok hlen) hselect

/-! ## Select undoes rank (42_dense_select.md R119) -/

theorem keepsStructures_ask (s : State) (k : Nat) : KeepsStructures s (s.ask k) :=
  ⟨rfl, rfl, rfl, rfl, rfl, rfl, rfl, rfl⟩

/-- The operand a host asks with is the rank, and asking touches nothing that a select reads. -/
theorem exec_selectCommand_ask {s : State} (valid : s.dvalid = true) (v : Bool) {k : Nat} (hk : k < 2 ^ 64) :
    exec (selectCommand v) (s.ask k) = conclude (denseSelect s.dv k v s) (s.ask k) := by
  rw [exec_selectCommand (s := s.ask k) valid, operand_ask hk, (keepsStructures_ask s k).denseSelect_eq, ask_dv]

/-- Asked for the number of `v`-bits before a `v`-bit of a built `DV`, the select command answers its position. -/
theorem answers_selectCommand {s : State} (hbytes : s.bufBytes ≤ 2 ^ 60) (valid : s.dvalid = true)
    (ok : DenseOk s s.dv) {v : Bool} {p : Nat} (hp : p < s.dv.length) (hbit : s.bitAt s.dv.src.memory p = v) :
    Answers (selectCommand v) (s.ask (s.count s.dv.src v 0 p)) p := by
  have hrank : s.count s.dv.src v 0 p < total s.dv v := by
    rw [total_eq_count ok]
    exact count_lt_of_bitAt hbit hp
  have hword : s.count s.dv.src v 0 p < 2 ^ 64 := by
    have hle := count_le s s.dv.src v p
    have hlen := ok.length_succ_lt hbytes
    omega
  obtain ⟨q, hq, -, hqbit, hqcount⟩ := denseSelect_answers ok v hrank
  obtain rfl : q = p := eq_of_count_eq hqbit hbit hqcount
  rw [Answers, exec_selectCommand_ask valid v hword, hq]
  rfl

/-- Settles O28: rank counts the ones before `p`, so that `p` minus it is the zeros before `p`; the bit at `p` is the only
one of its value with that many before it. -/
theorem denseSelectUndoesRank : Obligations.DenseSelectUndoesRank := by
  intro s hbytes valid ok
  refine ⟨fun p hp => ⟨s.ones s.dv.src 0 p, ones_le s s.dv.src 0 p, answers_drank1 hbytes valid ok hp.le,
    answers_selectCommand hbytes valid ok hp, answers_selectCommand hbytes valid ok hp⟩, fun k hk hlt => ?_,
    fun hempty k => ?_⟩
  · exact ⟨_, _, exec_selectCommand_of_ge (s := s.ask k) valid true (by rwa [operand_ask hlt])⟩
  · have hzero (v : Bool) : total s.dv v ≤ (s.ask k).operand := by
      rw [total_eq_count ok, hempty, count_self]
      exact Nat.zero_le _
    exact ⟨⟨_, _, exec_selectCommand_of_ge (s := s.ask k) valid true (hzero true)⟩,
      ⟨_, _, exec_selectCommand_of_ge (s := s.ask k) valid false (hzero false)⟩⟩

end Sys2Proof.Machine

/-! PROOFS. The statements of 43_bit_field.md: `LowGet` reads the number whose bits stand in its code (O29),
`HighEmit` sets one bit (O30), the clears zero their bytes (O31), and pass 2 sets no bit past the codes and the bitmap (O32). -/

namespace Sys2Proof.Machine

/-! ## `LowGet` is a function of the bits of its code (43_bit_field.md R130, R133; O29) -/

theorem forUp_congr {σ : Type} {f g : Nat → σ → Except Stop σ} {a n : Nat}
    (h : ∀ i acc, a ≤ i → i < a + n → f i acc = g i acc) (acc : σ) : forUp f a n acc = forUp g a n acc := by
  induction n generalizing a acc with
  | zero => rfl
  | succ n ih =>
    rw [forUp_succ, forUp_succ, h a acc (Nat.le_refl a) (by omega)]
    congr 1
    exact funext (ih fun i acc hi hn => h i acc (by omega) (by omega))

/-- A bit access depends on the capacity and on that bit (20_memory.md R41). -/
theorem readBit_congr {s t : State} {m : ByteMemory} {o : Nat} (hcap : t.bufBytes = s.bufBytes)
    (hbit : t.bitAt m o = s.bitAt m o) : readBit m o t = readBit m o s := by
  by_cases ho : o / 8 < s.bufBytes
  · rw [readBit_of_lt (by omega), readBit_of_lt (by omega), hbit]
  · rw [readBit, readBit, readByte, readByte, hcap, if_neg ho, if_neg ho]

theorem lowGet_congr {s t : State} {l r : Nat} (hcap : t.bufBytes = s.bufBytes)
    (hbits : ∀ k, k < l → t.bitAt .low (r * l + k) = s.bitAt .low (r * l + k)) : lowGet l r t = lowGet l r s :=
  forUp_congr (fun k _ _ hk => by rw [readBit_congr hcap (hbits k (by omega))]) 0

/-- `LowGet` answers the number whose `l` low-order bits stand in code `r` (R133). -/
theorem lowGet_of_bits {s : State} {l r value : Nat} (hcode : r * l + l ≤ s.maxLen)
    (hbits : ∀ k, k < l → s.bitAt .low (r * l + k) = value.testBit k) : lowGet l r s = .ok (value % 2 ^ l) := by
  have loop : ∃ x, lowGet l r s = .ok x ∧ x = value % 2 ^ (0 + l) := by
    refine forUp_answers (fun k x => x = value % 2 ^ k) (by simp [Nat.mod_one]) ?_
    rintro k _ - hk rfl
    rw [readBit_of_lt (by simp only [State.maxLen] at hcode; omega), ok_bind, hbits k (by omega)]
    exact ⟨_, rfl, by rw [Nat.mod_pow_succ, Nat.toNat_testBit, Nat.mul_comm]⟩
  obtain ⟨x, hx, rfl⟩ := loop
  rwa [Nat.zero_add] at hx

/-- Code `i` ends where code `i + 1` begins (R130). -/
theorem code_end_le {i r : Nat} (h : i < r) (l : Nat) : i * l + l ≤ r * l := by
  rw [← Nat.succ_mul]
  exact Nat.mul_le_mul_right l h

/-- Different codes have no bit in common (R130). -/
theorem code_disjoint {l r r' k : Nat} (hr : r' ≠ r) (hk : k < l) : r' * l + k < r * l ∨ r * l + l ≤ r' * l + k := by
  rcases Nat.lt_or_gt_of_ne hr with hlt | hgt
  · have := code_end_le hlt l
    omega
  · have := code_end_le hgt l
    omega

/-- Settles O29: `LowPut` leaves the bits of the value in code `r`, which `LowGet` reads, and no other bit differs. -/
theorem lowGetReadsBackLowPut : Obligations.LowGetReadsBackLowPut := by
  intro s l r value hvalue hcode hclear
  obtain ⟨u, hu, hcap, hbits⟩ := lowPut_answers value hcode
  have inside : ∀ k, k < l → u.bitAt .low (r * l + k) = value.testBit k := fun k hk => by
    rw [Bool.eq_iff_iff, hbits, hclear k hk]
    simp [hk]
  have outside : ∀ o, (o < r * l ∨ r * l + l ≤ o) → u.bitAt .low o = s.bitAt .low o := fun o ho => by
    have hnot : ¬ ∃ k, k < l ∧ o = r * l + k ∧ value.testBit k = true := by
      rintro ⟨k, hk, rfl, -⟩
      omega
    rw [Bool.eq_iff_iff, hbits]
    simp [hnot]
  have hread : lowGet l r u = .ok (value % 2 ^ l) := lowGet_of_bits (by rwa [State.maxLen, hcap]) inside
  rw [Nat.mod_eq_of_lt hvalue] at hread
  exact ⟨u, hu, hread, lowPut_frame hu,
    fun r' hr => lowGet_congr hcap fun k hk => outside _ (code_disjoint hr hk), outside⟩

/-! ## `HighEmit` and the clears (43_bit_field.md R134, R135; O30, O31) -/

/-- Settles O30: the bits and the frame of `HighEmit`. -/
theorem highEmitSetsOneBit : Obligations.HighEmitSetsOneBit := by
  intro s offset gap h
  obtain ⟨t, ht, -, hbits⟩ := highEmit_answers h
  refine ⟨t, ht, (highEmit_frame ht).1, fun o => ?_⟩
  rw [Bool.eq_iff_iff, hbits, Bool.or_eq_true, decide_eq_true_iff]
  simp

/-- A clear zeroes the bytes of its bits and changes nothing else of the state (R135). -/
theorem clearBits_zeroes {s : State} (m : ByteMemory) {nbits : Nat} (h : nbits ≤ s.maxLen) :
    ∃ t, clearBits m nbits s = .ok t ∧ t = s.setMemory m (t.memory m) ∧
      ∀ a, t.peek m a = if a < (nbits + 7) / 8 then 0 else s.peek m a := by
  obtain ⟨t, ht, -, hpeek⟩ := clearBits_answers (m := m) h
  obtain ⟨x, rfl⟩ := clearBits_frame ht
  exact ⟨_, ht, by simp, fun a => by simpa using hpeek m a⟩

/-- Settles O31: both clears are `clearBits`, of `LOW` and of `HBUF`. -/
theorem clearsZeroTheBytesOfTheirBits : Obligations.ClearsZeroTheBytesOfTheirBits :=
  fun _ _ h => ⟨clearBits_zeroes .low h, clearBits_zeroes .hbuf h⟩

/-! ## The last bytes after a general-form build (43_bit_field.md R131, R135; O32) -/

/-- The bits of memory `m` from bit `n` to the end of the byte that holds the last of `n` bits are 0 (R131). -/
def PaddingZero (s : State) (m : ByteMemory) (n : Nat) : Prop :=
  ∀ o, n ≤ o → o < 8 * ((n + 7) / 8) → s.bitAt m o = false

/-- A memory whose bytes of `n` bits were cleared, and in which then only bits below `n` were set. -/
theorem paddingZero_of_bits {s u : State} {m : ByteMemory} {n : Nat} {written : Nat → Prop}
    (hbits : ∀ o, u.bitAt m o = true ↔ (s.bitAt m o = true ∧ ¬ o < 8 * ((n + 7) / 8)) ∨ written o)
    (hwritten : ∀ o, written o → o < n) : PaddingZero u m n := by
  intro o hge hlt
  rw [← Bool.not_eq_true, hbits]
  rintro (⟨-, hcleared⟩ | h)
  · exact hcleared hlt
  · exact Nat.not_lt.2 hge (hwritten o h)

/-- Every bit of `r` codes lies below `r * l`. -/
theorem encoded_low_lt {s : State} {n l r o : Nat} (h : Encoded s n l r .low o) : o < r * l := by
  obtain ⟨i, hi, k, hk, rfl, -⟩ := h
  have := code_end_le hi l
  omega

/-- Every 1 bit of the high bitmap lies below its length, which the last element gives. -/
theorem PassOneDone.encoded_hbuf_lt {s : State} {n : Nat} {p : PassOneVars} (done : PassOneDone s n p) {l o : Nat}
    (h : Encoded s n l p.weight .hbuf o) : o < p.weight + (p.lastSetPos >>> l) := by
  obtain ⟨i, hi, rfl⟩ := h
  obtain ⟨hlt, hbit, -⟩ := setPosition_spec (s := s) (src := .buf) (n := n) (by rwa [← done.weight_eq])
  have hlast : s.setPosition .buf n i ≤ p.lastSetPos := by
    rw [done.lastSetPos_eq, done.weight_eq]
    exact le_lastSetPosition hlt hbit
  have hhigh : s.setPosition .buf n i >>> l ≤ p.lastSetPos >>> l := by
    simp only [Nat.shiftRight_eq_div_pow]
    exact Nat.div_le_div_right hlast
  omega

/-- Pass 2 sets the bits of the encoding only, in bytes it has cleared (44_sparse.md R145). -/
theorem paddingZero_sparsePassTwo {s u : State} {n l : Nat} {p : PassOneVars} (done : PassOneDone s n p)
    (hcodes : p.weight * l ≤ s.maxLen) (hbitmap : p.weight + (p.lastSetPos >>> l) ≤ s.maxLen)
    (hu : sparsePassTwo n p.weight l (2 ^ l - 1) (p.weight + (p.lastSetPos >>> l)) s = .ok u) :
    PaddingZero u .low (p.weight * l) ∧ PaddingZero u .hbuf (p.weight + (p.lastSetPos >>> l)) := by
  obtain ⟨u', hu', hlow, hhigh⟩ := sparsePassTwo_answers done hcodes hbitmap
  obtain rfl : u' = u := Except.ok.inj (hu'.symm.trans hu)
  exact ⟨paddingZero_of_bits hlow fun _ => encoded_low_lt, paddingZero_of_bits hhigh fun _ => done.encoded_hbuf_lt⟩

theorem denseBuild_length {s : State} {src : Source} {n : Nat} {c : DenseContext} (h : denseBuild src n s = .ok c) :
    c.length = n := by
  obtain ⟨v, -, h⟩ := bind_eq_ok.1 h
  rw [← Except.ok.inj h]

/-- The general form ends with pass 2 over the sequence and the inner build over the bitmap (44_sparse.md R140). -/
theorem paddingZero_sbuildBody {s t : State} (h : sbuildBody s = .ok t) (hgen : t.sv.degenerate = false) :
    PaddingZero t .low (t.sv.weight * t.sv.lowLength) ∧ PaddingZero t .hbuf t.sv.inner.length := by
  obtain ⟨hn, p, hp, hpos, ⟨-, c, -, rfl⟩ | ⟨hl, u, c, hu, hc, rfl⟩⟩ := sbuildBody_eq_ok h
  · cases hgen
  · obtain ⟨p', hp', -, hdone⟩ := sparsePassOne_answers hn
    obtain rfl : p' = p := Except.ok.inj (hp'.symm.trans hp)
    have done := hdone hpos
    obtain ⟨low, high⟩ := paddingZero_sparsePassTwo done (done.codes_le hl) (done.bitmap_le hl) hu
    rw [← denseBuild_length hc] at high
    exact ⟨low, high⟩

/-- Settles O32: a build that succeeds has finished its body. -/
theorem bitsBeyondTheCodesAreZeroAfterABuild : Obligations.BitsBeyondTheCodesAreZeroAfterABuild := by
  intro s t h hok hgen
  obtain ⟨u, hu, rfl⟩ | ⟨e, -, rfl⟩ := concludeBuild_next.1 h
  · exact (paddingZero_sbuildBody hu hgen :)
  · cases hok

end Sys2Proof.Machine

/-! PROOFS. The statements of 44_sparse.md: `SBUILD` encodes the set positions of `BUF` or refuses (O33, O34, O35), both queries
read the positions back from the encoding (O38, O39), and so they agree with those of the dense structure (O40). -/

namespace Sys2Proof.Machine

/-! ## The bytes past the codes and the bitmap (44_sparse.md R140, R145) -/

/-- A byte is its eight bits (20_memory.md R41). -/
theorem peek_eq_of_bits {s t : State} {m : ByteMemory} {a : Nat}
    (h : ∀ o, o / 8 = a → t.bitAt m o = s.bitAt m o) : t.peek m a = s.peek m a := by
  refine BitVec.eq_of_getLsbD_eq fun k hk => ?_
  have hbit := h (8 * a + k) (by omega)
  rwa [State.bitAt, State.bitAt, show (8 * a + k) / 8 = a by omega, show (8 * a + k) % 8 = k by omega] at hbit

/-- The bytes of memory `m` past those that hold `n` bits are the same in `t` as in `s`. -/
def KeepsBytesPast (s t : State) (m : ByteMemory) (n : Nat) : Prop :=
  ∀ a, (n + 7) / 8 ≤ a → t.peek m a = s.peek m a

/-- A memory of which only the bytes of `n` bits were cleared, and in which then only bits below `n` were set. -/
theorem keepsBytesPast_of_bits {s u : State} {m : ByteMemory} {n : Nat} {written : Nat → Prop}
    (hbits : ∀ o, u.bitAt m o = true ↔ (s.bitAt m o = true ∧ ¬ o < 8 * ((n + 7) / 8)) ∨ written o)
    (hwritten : ∀ o, written o → o < n) : KeepsBytesPast s u m n := by
  refine fun a ha => peek_eq_of_bits fun o ho => ?_
  have hpast : ¬ o < 8 * ((n + 7) / 8) := by omega
  have hnot : ¬ written o := fun h => hpast (by have := hwritten o h; omega)
  rw [Bool.eq_iff_iff, hbits, or_iff_left hnot, and_iff_left hpast]

/-- A finished `SBUILD` body has written the bytes of its codes and its bitmap, in the general form only (R140). -/
theorem keepsBytesPast_sbuildBody {s t : State} (h : sbuildBody s = .ok t) :
    (t.sv.degenerate = true → t.low = s.low ∧ t.hbuf = s.hbuf) ∧
      KeepsBytesPast s t .low (t.sv.weight * t.sv.lowLength) ∧ KeepsBytesPast s t .hbuf t.sv.inner.length := by
  obtain ⟨hn, p, hp, hpos, ⟨-, c, -, rfl⟩ | ⟨hl, u, c, hu, hc, rfl⟩⟩ := sbuildBody_eq_ok h
  · exact ⟨fun _ => ⟨rfl, rfl⟩, fun _ _ => rfl, fun _ _ => rfl⟩
  · obtain ⟨p', hp', -, hdone⟩ := sparsePassOne_answers hn
    obtain rfl : p' = p := Except.ok.inj (hp'.symm.trans hp)
    have done := hdone hpos
    obtain ⟨u', hu', hlow, hhigh⟩ := sparsePassTwo_answers done (done.codes_le hl) (done.bitmap_le hl)
    obtain rfl : u' = u := Except.ok.inj (hu'.symm.trans hu)
    have high := keepsBytesPast_of_bits hhigh fun _ => done.encoded_hbuf_lt
    rw [← denseBuild_length hc] at high
    exact ⟨nofun, keepsBytesPast_of_bits hlow fun _ => encoded_low_lt, high⟩

/-! ## How `SBUILD` ends (44_sparse.md R140, R141) -/

/-- `SVALID` and `SDEGEN` cleared, `DVALID` kept (10_state.md R18). -/
theorem setFlag_sparse_cleared (f : BitVec 3) : setFlag 2 false (setFlag 1 false f) = f &&& 1#3 := by
  revert f; decide

/-- `SBUILD` of a length over the capacity (R140). -/
theorem exec_sbuild_of_lt {s : State} (h : s.maxLen < s.operand) :
    exec .sbuild s = .next (raise .capacity (s.setSvalid false |>.setSdegen false)) := by
  have hbody : sbuildBody (s.setSvalid false |>.setSdegen false) = .error (.raised .capacity) := if_pos h
  rw [exec, execSbuild, hbody, concludeBuild]

/-- A sequence with no set bit is refused after pass 1 (R141). -/
theorem sbuildBody_of_ones_eq_zero {s : State} (hlen : s.operand ≤ s.maxLen) (h : s.ones .buf 0 s.operand = 0) :
    sbuildBody s = .error (.raised .zeroWeight) := by
  obtain ⟨p, hp, hweight, -⟩ := sparsePassOne_answers hlen
  simp only [sbuildBody, if_neg (Nat.not_lt.2 hlen), hp, ok_bind, if_pos (hweight.trans h)]

/-- `SBUILD` of a sequence with no set bit (R141). -/
theorem exec_sbuild_of_ones_eq_zero {s : State} (hlen : s.operand ≤ s.maxLen) (h : s.ones .buf 0 s.operand = 0) :
    exec .sbuild s = .next (raise .zeroWeight (s.setSvalid false |>.setSdegen false)) := by
  rw [exec, execSbuild, sbuildBody_of_ones_eq_zero (s := s.setSvalid false |>.setSdegen false) hlen h, concludeBuild]

/-- `SBUILD`'s body answers for a length the buffer can hold and a sequence with a set bit: there it neither raises nor
faults. -/
theorem sbuildBody_answers {s : State} (hlen : s.operand ≤ s.maxLen) (hpos : 0 < s.ones .buf 0 s.operand) :
    ∃ t, sbuildBody s = .ok t := by
  cases hbody : sbuildBody s with
  | ok t => exact ⟨t, rfl⟩
  | error e =>
    cases e with
    | machine f => exact absurd hbody (sbuildBody_completes s f)
    | raised e =>
      obtain ⟨-, hlt⟩ | ⟨-, -, p, hp, hzero⟩ := sbuildBody_raised hbody
      · omega
      · rw [sparsePassOne_weight hlen hp] at hzero
        omega

/-- What a successful `SBUILD` has changed: `LOW` and `HBUF` in the bytes it needs, `SV`, `RES`, `STATUS`, and of `FLAGS` all but
`DVALID`. -/
theorem sbuild_built {s t : State} (h : exec .sbuild s = .next t) (hok : t.status = .ok) :
    t = { s with flags := t.flags, sv := t.sv, low := t.low, hbuf := t.hbuf, res := 0, status := .ok } ∧
      t.dvalid = s.dvalid ∧ t.svalid = true ∧ (t.sv.degenerate = true → t.low = s.low ∧ t.hbuf = s.hbuf) ∧
      KeepsBytesPast s t .low (t.sv.weight * t.sv.lowLength) ∧ KeepsBytesPast s t .hbuf t.sv.inner.length := by
  obtain ⟨u, hu, rfl⟩ | ⟨e, -, rfl⟩ := concludeBuild_next.1 h
  · obtain ⟨frame, hsvalid, hdvalid, -⟩ := sbuildBody_frame hu
    exact ⟨by rw [frame]; rfl, hdvalid.trans (by simp), hsvalid, (keepsBytesPast_sbuildBody hu :)⟩
  · cases hok

/-- Settles O33: the two refusals, and what a body that answers has made and kept. -/
theorem sbuildEncodesTheSetPositionsOrRefuses : Obligations.SbuildEncodesTheSetPositionsOrRefuses := by
  refine fun s => ⟨fun hlt => ?_, fun hlen hzero => ?_, fun hlen hpos => ?_⟩
  · rw [← setFlag_sparse_cleared]
    exact ⟨_, _, exec_sbuild_of_lt hlt⟩
  · rw [← setFlag_sparse_cleared]
    exact ⟨_, _, exec_sbuild_of_ones_eq_zero hlen hzero⟩
  · obtain ⟨u, hu⟩ := sbuildBody_answers (s := s.setSvalid false |>.setSdegen false) hlen hpos
    have hrun : exec .sbuild s = .next (finish 0 u) := concludeBuild_next.2 (.inl ⟨u, hu, rfl⟩)
    obtain ⟨frame, hdvalid, hsvalid, hdegenerate, hlow, hhigh⟩ := sbuild_built hrun rfl
    obtain ⟨ok, hlength, -⟩ := sbuild_sparseOk hrun rfl
    exact ⟨_, hrun, frame, hdvalid, hsvalid, ok.sdegen_eq, hlength, ok, hdegenerate, hlow, hhigh⟩

/-- A failed `SBUILD` leaves no valid structure (R175). -/
theorem sbuild_status_of_svalid {s t : State} (h : exec .sbuild s = .next t) (hvalid : t.svalid = true) :
    t.status = .ok := by
  obtain ⟨u, -, rfl⟩ | ⟨e, -, rfl⟩ := concludeBuild_next.1 h
  · rfl
  · rw [svalid_raise, svalid_setSdegen, svalid_setSvalid] at hvalid
    cases hvalid

/-- Settles O34: the weight is the number of set bits, which a valid structure has at least one of and at most as many as
positions. -/
theorem zeroWeightBuildsNothing : Obligations.ZeroWeightBuildsNothing := by
  refine ⟨fun s hlen hclear => ?_, fun s t h hvalid => ?_⟩
  · have hzero : s.ones .buf 0 s.operand = 0 := by
      refine List.countP_eq_zero.2 fun o ho => ?_
      rw [List.mem_range'_1] at ho
      rw [Source.memory, hclear o (by simp only [State.operand] at ho; omega)]
      exact Bool.false_ne_true
    rw [← setFlag_sparse_cleared]
    exact ⟨_, _, exec_sbuild_of_ones_eq_zero hlen hzero⟩
  · obtain ⟨ok, -⟩ := sbuild_sparseOk h (sbuild_status_of_svalid h hvalid)
    have hle := ones_le t .buf 0 t.sv.length
    rw [← ok.weight_eq] at hle
    exact ⟨ok.weight_pos, ok.weight_pos.trans hle⟩

/-! ## The encoding read back (44_sparse.md R146) -/

/-- Select of ones on a built context answers the set position of that number. -/
theorem denseSelect_eq_setPosition {s : State} {c : DenseContext} (ok : DenseOk s c) {rank : Nat}
    (h : rank < c.rank1Max) : denseSelect c rank true s = .ok (s.setPosition c.src c.length rank) := by
  obtain ⟨p, hp, hlt, hbit, hcount⟩ := denseSelect_answers ok true h
  obtain rfl : s.ones c.src 0 p = rank := hcount
  rw [hp, setPosition_ones hlt hbit]

/-- The position in the sequence, put together from the high bits and the low code (R159). -/
theorem high_or_low (p l : Nat) : ((p >>> l) <<< l) ||| (p % 2 ^ l) = p := by
  rw [← Nat.shiftLeft_add_eq_or_of_lt (Nat.mod_lt p (Nat.two_pow_pos l)), Nat.shiftLeft_eq, Nat.shiftRight_eq_div_pow,
    Nat.div_add_mod']

section General
variable {s : State} (ok : SparseOk s) (hgen : s.sv.degenerate = false)
include ok hgen

/-- Element `i`'s 1 bit is the `i`-th of the high bitmap. -/
theorem SparseOk.setPosition_inner {i : Nat} (hi : i < s.sv.weight) : s.setPosition .hbuf s.sv.inner.length i =
    (s.setPosition .buf s.sv.length i >>> s.sv.lowLength) + i := by
  rw [State.setPosition, ok.setPositions_inner hgen]
  simp [hi]

theorem SparseOk.high_spec {i : Nat} (hi : i < s.sv.weight) :
    (s.setPosition .buf s.sv.length i >>> s.sv.lowLength) + i < s.sv.inner.length ∧
      s.bitAt .hbuf ((s.setPosition .buf s.sv.length i >>> s.sv.lowLength) + i) = true ∧
      s.ones .hbuf 0 ((s.setPosition .buf s.sv.length i >>> s.sv.lowLength) + i) = i := by
  rw [← ok.setPosition_inner hgen hi]
  exact Machine.setPosition_spec (src := .hbuf) (by rwa [ok.ones_inner hgen])

theorem SparseOk.denseSelect_inner {i : Nat} (hi : i < s.sv.weight) :
    denseSelect s.sv.inner i true s = .ok ((s.setPosition .buf s.sv.length i >>> s.sv.lowLength) + i) := by
  rw [denseSelect_eq_setPosition ok.inner_ok (by rwa [ok.inner_rank1Max hgen]), (ok.general_inner hgen).1,
    ok.setPosition_inner hgen hi]

theorem SparseOk.lowGet_eq {i : Nat} (hi : i < s.sv.weight) :
    lowGet s.sv.lowLength i s = .ok (s.setPosition .buf s.sv.length i % 2 ^ s.sv.lowLength) :=
  lowGet_of_bits (ok.code_le hgen hi) (ok.low_bits hgen i hi)

/-- The high bitmap has one 0 bit for each bucket below the last element's. -/
theorem SparseOk.zeros_inner : s.zeros .hbuf 0 s.sv.inner.length = s.sv.lastSetPos >>> s.sv.lowLength := by
  have hsum := ones_add_zeros s .hbuf 0 s.sv.inner.length
  rw [ok.ones_inner hgen] at hsum
  have hlen := (ok.general_inner hgen).2
  omega

end General

/-- Settles O35: each clause is what `SparseOk` says of the high bitmap and the codes. -/
theorem sbuildPostcondition : Obligations.SbuildPostcondition := by
  intro s t h hok hgen
  obtain ⟨ok, -⟩ := sbuild_sparseOk h hok
  refine ⟨fun i hi => ?_, ?_, fun i hi => (ok.high_spec hgen hi).2.1, fun o ho hnone => ?_, ok.ones_inner hgen, ?_,
    ok.inner_rank1Max hgen, fun i hi => ok.denseSelect_inner hgen hi⟩
  · rw [ok.lowMask_eq, Nat.and_two_pow_sub_one_eq_mod]
    exact ok.lowGet_eq hgen hi
  · rw [← ok.lastSetPos_eq]
    exact (ok.general_inner hgen).2
  · rw [ok.high_bits hgen o ho, decide_eq_false_iff_not]
    rintro ⟨i, hi, heq⟩
    exact hnone i hi heq
  · rw [← ok.lastSetPos_eq]
    exact ok.zeros_inner hgen

/-! ## Rank on the encoding (44_sparse.md R151) -/

/-- The `i`-th set position is one of those before `c` exactly when it lies before `c`. -/
theorem lt_ones_iff {s : State} {src : Source} {n i : Nat} (hi : i < s.ones src 0 n) (c : Nat) :
    i < s.ones src 0 c ↔ s.setPosition src n i < c := by
  obtain ⟨-, hbit, hones⟩ := setPosition_spec hi
  constructor
  · intro hlt
    by_contra hge
    have := ones_mono s src (Nat.zero_le c) (Nat.le_of_not_lt hge)
    omega
  · intro hlt
    have := ones_lt_of_bitAt hbit hlt
    omega

/-- A later position is in no earlier bucket. -/
theorem bucket_mono (l : Nat) {p q : Nat} (h : p ≤ q) : p >>> l ≤ q >>> l := by
  simp only [Nat.shiftRight_eq_div_pow]
  exact Nat.div_le_div_right h

/-- The walk of R151 stands at `offset` of the high bitmap, in the bucket of `pos`: as many zeros as that bucket's number come
before `offset`, and the elements whose 1 bits come before it lie before `pos`. -/
structure WalkOk (s : State) (pos offset : Nat) : Prop where
  bucket : offset = s.ones .hbuf 0 offset + (pos >>> s.sv.lowLength)
  before : s.ones .hbuf 0 offset ≤ s.ones .buf 0 pos

section Elements
variable {s : State} (ok : SparseOk s)
include ok

/-- Before a position stand at most all elements. -/
theorem SparseOk.ones_le_weight {pos : Nat} (hpos : pos ≤ s.sv.length) : s.ones .buf 0 pos ≤ s.sv.weight := by
  rw [ok.weight_eq]
  exact ones_mono s .buf (Nat.zero_le pos) hpos

theorem SparseOk.lt_ones_iff {i : Nat} (hi : i < s.sv.weight) (c : Nat) :
    i < s.ones .buf 0 c ↔ s.setPosition .buf s.sv.length i < c :=
  Machine.lt_ones_iff (by rwa [← ok.weight_eq]) c

/-- A position whose bucket is past the last element's has all elements before it. -/
theorem SparseOk.weight_le_ones {pos : Nat} (h : s.sv.lastSetPos >>> s.sv.lowLength < pos >>> s.sv.lowLength) :
    s.sv.weight ≤ s.ones .buf 0 pos := by
  have hlt : s.sv.lastSetPos < pos := by
    by_contra hge
    have := bucket_mono s.sv.lowLength (Nat.le_of_not_lt hge)
    omega
  rw [ok.lastSetPos_eq, ← ok.lt_ones_iff (Nat.sub_lt ok.weight_pos Nat.one_pos)] at hlt
  omega

end Elements

section General
variable {s : State} (ok : SparseOk s) (hgen : s.sv.degenerate = false)
include ok hgen

/-- Element `i`'s 1 bit is one of those before offset `o` of the high bitmap exactly when it lies before `o`. -/
theorem SparseOk.lt_ones_hbuf_iff {i : Nat} (hi : i < s.sv.weight) (o : Nat) :
    i < s.ones .hbuf 0 o ↔ (s.setPosition .buf s.sv.length i >>> s.sv.lowLength) + i < o := by
  rw [← ok.setPosition_inner hgen hi]
  exact Machine.lt_ones_iff (src := .hbuf) (by rwa [ok.ones_inner hgen]) o

/-- At a 1 bit the walk has found the next element, in the bucket of `pos`. -/
theorem WalkOk.element {pos offset : Nat} (walk : WalkOk s pos offset) (ho : offset < s.sv.inner.length)
    (hbit : s.bitAt .hbuf offset = true) : s.ones .hbuf 0 offset < s.sv.weight ∧
      s.setPosition .buf s.sv.length (s.ones .hbuf 0 offset) >>> s.sv.lowLength = pos >>> s.sv.lowLength := by
  have hi : s.ones .hbuf 0 offset < s.sv.weight := by
    rw [← ok.ones_inner hgen]
    exact ones_lt_of_bitAt hbit ho
  have hat := ok.setPosition_inner hgen hi
  rw [setPosition_ones (src := .hbuf) ho hbit] at hat
  have hbucket := walk.bucket
  exact ⟨hi, by omega⟩

/-- At a 0 bit the bucket of `pos` has no further element, so that the elements before `pos` are those the walk has passed. -/
theorem WalkOk.done {pos offset : Nat} (walk : WalkOk s pos offset) (hpos : pos ≤ s.sv.length)
    (hbit : s.bitAt .hbuf offset = false) : s.ones .hbuf 0 offset = s.ones .buf 0 pos := by
  refine Nat.le_antisymm walk.before (Nat.le_of_not_lt fun hnext => ?_)
  have hi := Nat.lt_of_lt_of_le hnext (ok.ones_le_weight hpos)
  have hbucket := bucket_mono s.sv.lowLength ((ok.lt_ones_iff hi pos).1 hnext).le
  have hlate := mt (ok.lt_ones_hbuf_iff hgen hi offset).2 (Nat.lt_irrefl _)
  have hat : (s.setPosition .buf s.sv.length (s.ones .hbuf 0 offset) >>> s.sv.lowLength) + s.ones .hbuf 0 offset =
      offset := by
    have := walk.bucket
    omega
  obtain ⟨-, hset, -⟩ := ok.high_spec hgen hi
  rw [hat, hbit] at hset
  cases hset

/-- The walk of R151 answers the number of elements before `pos`. -/
theorem WalkOk.sparseWalk_eq {pos fuel offset : Nat} (walk : WalkOk s pos offset) (hpos : pos ≤ s.sv.length)
    (hend : offset + fuel = s.sv.inner.length) :
    sparseWalk s.sv.lowLength (pos >>> s.sv.lowLength) pos .hbuf s fuel offset (s.ones .hbuf 0 offset) =
      .ok (s.ones .buf 0 pos) := by
  have hbits := ok.inner_ok.length_le_bits
  induction fuel generalizing offset with
  | zero =>
    have hall := ok.ones_inner hgen
    rw [← hend, Nat.add_zero] at hall
    rw [sparseWalk, Nat.le_antisymm walk.before (by rw [hall]; exact ok.ones_le_weight hpos)]
  | succ fuel ih =>
    rw [sparseWalk, readBit_of_lt (by omega), ok_bind, Source.memory]
    cases hbit : s.bitAt .hbuf offset with
    | false => simp only [Bool.false_eq_true, if_false, walk.done ok hgen hpos hbit]
    | true =>
      obtain ⟨hi, hbucket⟩ := walk.element ok hgen (by omega) hbit
      have hsucc : s.ones .hbuf 0 (offset + 1) = s.ones .hbuf 0 offset + 1 := by
        rw [ones_succ s .hbuf (Nat.zero_le offset), Source.memory, hbit, Bool.toNat_true]
      simp only [if_true, ok.lowGet_eq hgen hi, ok_bind, ← hbucket, high_or_low]
      by_cases hle : pos ≤ s.setPosition .buf s.sv.length (s.ones .hbuf 0 offset)
      · have hlast := mt (ok.lt_ones_iff hi pos).1 (Nat.not_lt.2 hle)
        rw [if_pos hle, Nat.le_antisymm walk.before (Nat.le_of_not_lt hlast)]
      · have hnext := (ok.lt_ones_iff hi pos).2 (Nat.lt_of_not_le hle)
        have walk' : WalkOk s pos (offset + 1) := by
          have := walk.bucket
          exact ⟨by omega, by omega⟩
        rw [if_neg hle, hbucket, ← hsucc]
        exact ih walk' (by omega)

/-- Where fewer zeros stand before `z` than the bucket of `pos` has before it, the elements before `z` are in earlier buckets. -/
theorem SparseOk.ones_hbuf_le {pos z : Nat} (hz : z ≤ s.sv.inner.length)
    (h : s.zeros .hbuf 0 z < pos >>> s.sv.lowLength) : s.ones .hbuf 0 z ≤ s.ones .buf 0 pos := by
  by_contra hmore
  rw [Nat.not_le] at hmore
  have hi : s.ones .buf 0 pos < s.sv.weight := by
    have := ones_mono s .hbuf (Nat.zero_le z) hz
    rw [ok.ones_inner hgen] at this
    omega
  have hlate := bucket_mono s.sv.lowLength (Nat.le_of_not_lt (mt (ok.lt_ones_iff hi pos).2 (Nat.lt_irrefl _)))
  have hpassed := (ok.lt_ones_hbuf_iff hgen hi z).1 hmore
  obtain ⟨-, -, hbefore⟩ := ok.high_spec hgen hi
  have hzeros := count_mono s .hbuf false hpassed.le
  simp only [State.count, Bool.false_eq_true, if_false, State.zeros, hbefore] at hzeros h
  omega

/-- The walk starts past the zeros of the buckets before that of `pos` (R151). -/
theorem SparseOk.sparseWalkStart_ok {pos : Nat}
    (h : pos >>> s.sv.lowLength ≤ s.sv.inner.length - s.sv.inner.rank1Max) :
    ∃ offset, sparseWalkStart s.sv.inner (pos >>> s.sv.lowLength) s = .ok offset ∧ offset ≤ s.sv.inner.length ∧
      WalkOk s pos offset := by
  rcases Nat.eq_zero_or_pos (pos >>> s.sv.lowLength) with hzero | hbucket
  · exact ⟨0, by rw [sparseWalkStart, if_pos hzero], Nat.zero_le _, by simp [hzero], by simp⟩
  obtain ⟨z, hz, hlt, hbit, hcount⟩ := denseSelect_answers ok.inner_ok false (rank := pos >>> s.sv.lowLength - 1)
    (by simp only [total, Bool.false_eq_true, if_false]; omega)
  rw [(ok.general_inner hgen).1] at hbit hcount
  have hones : s.ones .hbuf 0 (z + 1) = s.ones .hbuf 0 z := by
    rw [ones_succ s .hbuf (Nat.zero_le z), hbit, Bool.toNat_false, Nat.add_zero]
  have hsum := ones_add_zeros s .hbuf 0 z
  replace hcount : s.zeros .hbuf 0 z = pos >>> s.sv.lowLength - 1 := hcount
  refine ⟨z + 1, by rw [sparseWalkStart, if_neg hbucket.ne', hz, ok_bind], hlt, by omega, ?_⟩
  rw [hones]
  exact ok.ones_hbuf_le hgen hlt.le (by omega)

/-- `SparseRank1General` answers the number of elements before `pos` (R151). -/
theorem SparseOk.sparseRank1General_eq {pos : Nat} (hpos : pos ≤ s.sv.length) :
    sparseRank1General s.sv pos s = .ok (s.ones .buf 0 pos) := by
  rw [sparseRank1General, if_neg (Nat.not_lt.2 hpos)]
  by_cases hbucket : s.sv.inner.length - s.sv.inner.rank1Max < pos >>> s.sv.lowLength
  · have hpast : s.sv.lastSetPos >>> s.sv.lowLength < pos >>> s.sv.lowLength := by
      have hlen := (ok.general_inner hgen).2
      rw [ok.inner_rank1Max hgen] at hbucket
      omega
    simp only [if_pos hbucket, Nat.le_antisymm (ok.weight_le_ones hpast) (ok.ones_le_weight hpos)]
  · obtain ⟨offset, hstart, hle, walk⟩ := ok.sparseWalkStart_ok hgen (Nat.le_of_not_lt hbucket)
    have helement : offset - pos >>> s.sv.lowLength = s.ones .hbuf 0 offset := by
      have := walk.bucket
      omega
    simp only [if_neg hbucket, hstart, ok_bind, helement, (ok.general_inner hgen).1]
    exact walk.sparseWalk_eq ok hgen hpos (by omega)

/-- `SparseSelect1General` answers the `rank`-th set position (R159). -/
theorem SparseOk.sparseSelect1General_eq {rank : Nat} (h : rank < s.sv.weight) :
    sparseSelect1General s.sv rank s = .ok (s.setPosition .buf s.sv.length rank) := by
  rw [sparseSelect1General, ok.denseSelect_inner hgen h, ok_bind, ok.lowGet_eq hgen h, ok_bind, Nat.add_sub_cancel,
    high_or_low]

end General

/-! ## The queries, in both forms (44_sparse.md R150, R158) -/

section Queries
variable {s : State} (ok : SparseOk s) (valid : s.svalid = true)
include ok

/-- In both forms the inner context has one 1 bit for each element. -/
theorem SparseOk.rank1Max_eq_weight : s.sv.inner.rank1Max = s.sv.weight := by
  cases hform : s.sv.degenerate with
  | true =>
    obtain ⟨hsrc, hlen⟩ := ok.degenerate_inner hform
    rw [ok.inner_ok.rank1Max_eq, hsrc, hlen, ok.weight_eq]
  | false => exact ok.inner_rank1Max hform

include valid

theorem SparseOk.exec_srank1_of_lt (h : s.sv.length < s.operand) : exec .srank1 s = .next (raise .outOfRange s) := by
  rw [exec, execSrank1, if_pos valid]
  cases hform : s.sv.degenerate with
  | true =>
    rw [← (ok.degenerate_inner hform).2] at h
    rw [if_pos rfl, denseRank1, if_pos h, conclude]
  | false => rw [if_neg Bool.false_ne_true, sparseRank1General, if_pos h, conclude]

theorem SparseOk.exec_srank1_of_le (h : s.operand ≤ s.sv.length) :
    exec .srank1 s = .next (finish (s.ones .buf 0 s.operand) s) := by
  rw [exec, execSrank1, if_pos valid]
  cases hform : s.sv.degenerate with
  | true =>
    obtain ⟨hsrc, hlen⟩ := ok.degenerate_inner hform
    rw [if_pos rfl, denseRank1_answers ok.inner_ok (by rwa [hlen]), hsrc, conclude]
  | false => rw [if_neg Bool.false_ne_true, ok.sparseRank1General_eq hform h, conclude]

theorem SparseOk.exec_sselect1_of_ge (h : s.sv.weight ≤ s.operand) :
    exec .sselect1 s = .next (raise .rankOutOfRange s) := by
  have hselect : denseSelect s.sv.inner s.operand true s = .error (.raised .rankOutOfRange) :=
    denseSelect_of_ge (ok.rank1Max_eq_weight.trans_le h) s
  rw [exec, execSselect1, if_pos valid, sparseSelect1General, hselect, error_bind, ite_self, conclude]

theorem SparseOk.exec_sselect1_of_lt (h : s.operand < s.sv.weight) :
    exec .sselect1 s = .next (finish (s.setPosition .buf s.sv.length s.operand) s) := by
  rw [exec, execSselect1, if_pos valid]
  cases hform : s.sv.degenerate with
  | true =>
    obtain ⟨hsrc, hlen⟩ := ok.degenerate_inner hform
    rw [if_pos rfl, denseSelect_eq_setPosition ok.inner_ok (by rwa [ok.rank1Max_eq_weight]), hsrc, hlen, conclude]
  | false => rw [if_neg Bool.false_ne_true, ok.sparseSelect1General_eq hform h, conclude]

end Queries

/-- Settles O38: one rule of `SRANK1` for each case. -/
theorem srank1CountsTheSetPositionsBeforePos : Obligations.Srank1CountsTheSetPositionsBeforePos := fun _ =>
  ⟨fun invalid => ⟨_, _, exec_notBuilt (.inr ⟨by decide, invalid⟩)⟩,
    fun valid ok hlt => ⟨_, _, ok.exec_srank1_of_lt valid hlt⟩,
    fun valid ok hle => ok.exec_srank1_of_le valid hle⟩

/-- Settles O39: one rule of `SSELECT1` for each case. -/
theorem sselect1FindsTheRankthSetPosition : Obligations.Sselect1FindsTheRankthSetPosition := fun _ =>
  ⟨fun invalid => ⟨_, _, exec_notBuilt (.inr ⟨by decide, invalid⟩)⟩,
    fun valid ok hge => ⟨_, _, ok.exec_sselect1_of_ge valid hge⟩,
    fun valid ok hlt => ok.exec_sselect1_of_lt valid hlt⟩

/-! ## The sparse and the dense structure agree (44_sparse.md R161) -/

/-- A rank of `DV`'s 1 bits below their number answers the set position of that number (42_dense_select.md R110). -/
theorem exec_dselect1_of_lt {s : State} (valid : s.dvalid = true) (ok : DenseOk s s.dv)
    (h : s.operand < s.dv.rank1Max) :
    exec .dselect1 s = .next (finish (s.setPosition s.dv.src s.dv.length s.operand) s) := by
  rw [exec, execDselect1, if_pos valid, denseSelect_eq_setPosition ok h, conclude]

section Agree
variable {s : State} (hd : s.dvalid = true) (hs : s.svalid = true) (hsrc : s.dv.src = .buf) (dense : DenseOk s s.dv)
  (sparse : SparseOk s) (hlen : s.dv.length = s.sv.length)
include hd hs hsrc dense sparse hlen

/-- Over the same bytes and length both ranks are refused past the length, and count the ones of `BUF` up to there. -/
theorem srank1_eq_drank1 : ∃ t, exec .drank1 s = .next t ∧ exec .srank1 s = .next t := by
  rcases Nat.lt_or_ge s.sv.length s.operand with hlt | hle
  · exact ⟨_, exec_drank1_of_lt hd (by rwa [hlen]), sparse.exec_srank1_of_lt hs hlt⟩
  · refine ⟨_, exec_drank1_of_le hd dense (by rwa [hlen]), ?_⟩
    rw [hsrc]
    exact sparse.exec_srank1_of_le hs hle

/-- Over the same bytes and length both selects are refused from the weight on, and answer the set position below it. -/
theorem sselect1_eq_dselect1 : ∃ t, exec .dselect1 s = .next t ∧ exec .sselect1 s = .next t := by
  have hweight : s.dv.rank1Max = s.sv.weight := by rw [dense.rank1Max_eq, hsrc, hlen, sparse.weight_eq]
  rcases Nat.lt_or_ge s.operand s.sv.weight with hlt | hge
  · refine ⟨_, exec_dselect1_of_lt hd dense (by rwa [hweight]), ?_⟩
    rw [hsrc, hlen]
    exact sparse.exec_sselect1_of_lt hs hlt
  · exact ⟨_, exec_selectCommand_of_ge hd true (hweight.trans_le hge), sparse.exec_sselect1_of_ge hs hge⟩

end Agree

/-- Asking changes neither structure, so the two agree on every operand. -/
theorem sparseAgreesWithDense_of_valid {u : State} (dense : DenseInv u) (sparse : SparseInv u) (hd : u.dvalid = true)
    (hs : u.svalid = true) (hlen : u.dv.length = u.sv.length) : SparseAgreesWithDense u := by
  intro v _
  have keeps := keepsStructures_ask u v
  obtain ⟨hsrc, denseOk⟩ := keeps.denseInv dense hd
  have sparseOk := keeps.sparseInv sparse hs
  obtain ⟨a, hdense, hsparse⟩ := srank1_eq_drank1 (s := u.ask v) hd hs hsrc denseOk sparseOk hlen
  obtain ⟨b, hdense', hsparse'⟩ := sselect1_eq_dselect1 (s := u.ask v) hd hs hsrc denseOk sparseOk hlen
  exact ⟨⟨a, a, hdense, hsparse, rfl, fun _ => rfl⟩, ⟨b, b, hdense', hsparse', rfl, fun _ => rfl⟩⟩

/-- A successful `DBUILD` leaves a valid, true index of the operand's length (41_dense_index.md R95). -/
theorem dbuild_denseInv {s t : State} (h : exec .dbuild s = .next t) (hok : t.status = .ok) :
    t.dvalid = true ∧ DenseInv t ∧ t.dv.length = s.operand := by
  have hlen : t.dv.length = s.operand := by rw [dbuild_dv h hok, specContext]
  obtain ⟨u, hu, rfl⟩ | ⟨e, -, rfl⟩ := concludeBuild_next.1 h
  · refine ⟨?_, (keepsStructures_finish 0 u).denseInv (denseInv_dbuildBody hu), hlen⟩
    obtain ⟨-, c, -, rfl⟩ := dbuildBody_eq_ok hu
    exact dvalid_setDvalid true _
  · cases hok

/-- Settles O40: the second build keeps the first structure, and both have the operand's length. -/
theorem sparseAndDenseAgree : Obligations.SparseAndDenseAgree := by
  refine ⟨fun s t u hdbuild hdok hsbuild hsok => ?_, fun u inv hd hs hlen =>
    sparseAgreesWithDense_of_valid inv.dense inv.sparse hd hs hlen⟩
  obtain ⟨hd, dense, hdlen⟩ := dbuild_denseInv hdbuild hdok
  obtain ⟨frame, hdvalid, hs, -⟩ := sbuild_built hsbuild hsok
  obtain ⟨sparse, hslen, -⟩ := sbuild_sparseOk hsbuild hsok
  have hdv : u.dv = t.dv := (congrArg State.dv frame :)
  have hoperand : t.operand = s.operand := (congrArg State.operand (exec_frame hdbuild) :)
  exact sparseAgreesWithDense_of_valid (denseInv_exec dense hsbuild) (fun _ => sparse) (hdvalid.trans hd) hs
    (by rw [hdv, hdlen, hslen, hoperand])

end Sys2Proof.Machine

/-! PROOFS. The statements of 60_exceptions.md: the `STATUS` each command ends with, from which the table of causes (O41), and
what a failure leaves behind (O42), from which that it repeats (O43). -/

namespace Sys2Proof.Machine

/-! ## The `STATUS` of each command (60_exceptions.md R170, R176) -/

/-- The `STATUS` that command `i` ends with in a state of the invariant: the first of its conditions that holds, in R176's
order. -/
def finalStatus (s : State) (i : Instr) : Status :=
  match i with
  | .popcnt8 => if 255 < s.operand then .failed .illegalOperand else .ok
  | .log2floor => if s.operand = 0 then .failed .illegalOperand else .ok
  | .log2ceil => if s.operand = 0 then .failed .illegalOperand else .ok
  | .dbuild => if s.maxLen < s.operand then .failed .capacity else .ok
  | .drank1 =>
    if s.dvalid = false then .failed .notBuilt else if s.dv.length < s.operand then .failed .outOfRange else .ok
  | .dselect1 =>
    if s.dvalid = false then .failed .notBuilt
    else if s.dv.rank1Max ≤ s.operand then .failed .rankOutOfRange else .ok
  | .dselect0 =>
    if s.dvalid = false then .failed .notBuilt
    else if s.dv.length - s.dv.rank1Max ≤ s.operand then .failed .rankOutOfRange else .ok
  | .sbuild =>
    if s.maxLen < s.operand then .failed .capacity
    else if s.ones .buf 0 s.operand = 0 then .failed .zeroWeight else .ok
  | .srank1 =>
    if s.svalid = false then .failed .notBuilt else if s.sv.length < s.operand then .failed .outOfRange else .ok
  | .sselect1 =>
    if s.svalid = false then .failed .notBuilt
    else if s.sv.weight ≤ s.operand then .failed .rankOutOfRange else .ok

section Status
variable {i : Instr} {s t : State} {p : Prop} [Decidable p] {e : Failure}

/-- A command with one condition. -/
theorem status_of_cases (h : exec i s = .next t) (hfail : p → exec i s = .next (raise e s))
    (hok : ¬ p → ∃ v, exec i s = .next (finish v s)) : t.status = if p then .failed e else .ok := by
  by_cases hp : p
  · rw [if_pos hp, Host.Outcome.next.inj (h.symm.trans (hfail hp)), raise_status]
  · obtain ⟨v, hv⟩ := hok hp
    rw [if_neg hp, Host.Outcome.next.inj (h.symm.trans hv), finish_status]

/-- A query: the valid flag is tested before the operand. -/
theorem status_of_query {valid : Bool} (h : exec i s = .next t)
    (hinvalid : valid = false → exec i s = .next (raise .notBuilt s))
    (hfail : valid = true → p → exec i s = .next (raise e s))
    (hok : valid = true → ¬ p → ∃ v, exec i s = .next (finish v s)) :
    t.status = if valid = false then .failed .notBuilt else if p then .failed e else .ok := by
  cases valid with
  | false => rw [if_pos rfl, Host.Outcome.next.inj (h.symm.trans (hinvalid rfl)), raise_status]
  | true => exact status_of_cases h (hfail rfl) (hok rfl)

end Status

/-- In the invariant a command tests its conditions, and answers where none holds. -/
theorem exec_status {i : Instr} {s t : State} (inv : Inv s) (h : exec i s = .next t) : t.status = finalStatus s i :=
  match i with
  | .popcnt8 => status_of_cases h exec_popcnt8_of_lt fun hle => ⟨_, exec_popcnt8_of_le (Nat.le_of_not_lt hle)⟩
  | .log2floor => status_of_cases h exec_log2floor_of_eq_zero fun hne => ⟨_, exec_log2floor_of_ne_zero hne⟩
  | .log2ceil => status_of_cases h exec_log2ceil_of_eq_zero fun hne => ⟨_, exec_log2ceil_of_ne_zero hne⟩
  | .dbuild => dbuild_status h
  | .drank1 => status_of_query h (fun invalid => exec_notBuilt (.inl ⟨by decide, invalid⟩)) exec_drank1_of_lt
      fun valid hle => ⟨_, exec_drank1_of_le valid (inv.dense valid).2 (Nat.le_of_not_lt hle)⟩
  | .dselect1 => status_of_query h (fun invalid => exec_notBuilt (.inl ⟨by decide, invalid⟩))
      (fun valid => exec_selectCommand_of_ge valid true) fun valid hlt =>
        (exec_selectCommand_of_lt valid true (inv.dense valid).2 (Nat.lt_of_not_le hlt)).imp fun _ found => found.1
  | .dselect0 => status_of_query h (fun invalid => exec_notBuilt (.inl ⟨by decide, invalid⟩))
      (fun valid => exec_selectCommand_of_ge valid false) fun valid hlt =>
        (exec_selectCommand_of_lt valid false (inv.dense valid).2 (Nat.lt_of_not_le hlt)).imp fun _ found => found.1
  | .sbuild => sbuild_status h
  | .srank1 => status_of_query h (fun invalid => exec_notBuilt (.inr ⟨by decide, invalid⟩))
      (fun valid => (inv.sparse valid).exec_srank1_of_lt valid)
      fun valid hle => ⟨_, (inv.sparse valid).exec_srank1_of_le valid (Nat.le_of_not_lt hle)⟩
  | .sselect1 => status_of_query h (fun invalid => exec_notBuilt (.inr ⟨by decide, invalid⟩))
      (fun valid => (inv.sparse valid).exec_sselect1_of_ge valid)
      fun valid hlt => ⟨_, (inv.sparse valid).exec_sselect1_of_lt valid (Nat.lt_of_not_le hlt)⟩

/-! ## The table of causes (60_exceptions.md R170; O41) -/

/-- Of two conditions in order, the second is reported only where the first does not hold (60_exceptions.md R176). -/
theorem ite_failed_eq_failed {p : Prop} [Decidable p] {a e : Failure} {x : Status} :
    (if p then .failed a else x) = Status.failed e ↔ (p ∧ a = e) ∨ (¬ p ∧ x = .failed e) := by
  split <;> simp [*]

/-- A command that runs has a command word, so it does not report one that is none. -/
theorem finalStatus_ne_illegalCommand (s : State) (i : Instr) : finalStatus s i ≠ .failed .illegalCommand := by
  cases i <;> simp [finalStatus, ite_failed_eq_failed]

/-- Settles O41: each command's conditions, read row by row; and a word that is no command ends as such, while a command that
runs never does. -/
theorem everyFailureHasItsCause : Obligations.EveryFailureHasItsCause := by
  refine ⟨fun s t i inv h => ?_, fun s t w rest inv hs h => ?_⟩
  · rw [exec_status inv h]
    cases i
    all_goals
      simp only [finalStatus, ne_eq, ite_failed_eq_failed]
      simp [State.operand]
  · rw [step_command hs, issueCommand] at h
    cases hd : decode w with
    | ok i =>
      rw [hd] at h
      have keeps : KeepsStructures s { s with inputs := rest, cmd := w } := ⟨rfl, rfl, rfl, rfl, rfl, rfl, rfl, rfl⟩
      rw [exec_status (keeps.inv inv) h]
      exact iff_of_false (finalStatus_ne_illegalCommand _ i) fun hnone => hnone i rfl
    | error x =>
      rw [hd] at h
      rw [← Host.Outcome.next.inj h]
      exact iff_of_true rfl nofun

/-! ## What a failure does (60_exceptions.md R175, R177; O42, O43) -/

/-- A command that fails has raised, and before that a build has cleared its valid flag (R175). -/
theorem exec_failed {i : Instr} {s t : State} {e : Failure} (h : exec i s = .next t) (hfail : t.status = .failed e) :
    (readsOnly i = true ∧ t = raise e s) ∨ (i = .dbuild ∧ t = raise e (s.setDvalid false)) ∨
      (i = .sbuild ∧ t = raise e (s.setSvalid false |>.setSdegen false)) := by
  obtain ⟨hi, ⟨v, rfl⟩ | ⟨e', rfl⟩⟩ | ⟨rfl, ⟨u, -, rfl⟩ | ⟨e', -, rfl⟩⟩ | ⟨rfl, ⟨u, -, rfl⟩ | ⟨e', -, rfl⟩⟩ :=
    exec_next h <;> cases hfail
  · exact .inl ⟨hi, rfl⟩
  · exact .inr (.inl ⟨rfl, rfl⟩)
  · exact .inr (.inr ⟨rfl, rfl⟩)

/-- Settles O42: `raise` writes `RES` and `STATUS` only. -/
theorem failureHasNoOtherEffect : Obligations.FailureHasNoOtherEffect := by
  intro s t i e h hfail
  obtain ⟨hi, rfl⟩ | ⟨rfl, rfl⟩ | ⟨rfl, rfl⟩ := exec_failed h hfail
  · cases i with
    | dbuild | sbuild => cases hi
    | _ => rfl
  · simp only [← setFlag_dvalid_cleared]
    rfl
  · simp only [← setFlag_sparse_cleared]
    rfl

/-- A query or bit primitive that failed fails again, since its answer depends on nothing that a failure writes. -/
theorem exec_readsOnly_raise {i : Instr} (hi : readsOnly i = true) {s : State} {e : Failure}
    (h : exec i s = .next (raise e s)) : exec i (raise e s) = .next (raise e (raise e s)) := by
  obtain ⟨r, hs, ht⟩ := (keepsStructures_raise e s).exec_readsOnly_eq rfl hi
  rw [hs] at h
  rw [ht]
  obtain ⟨v, -, heq⟩ | ⟨e', rfl, heq⟩ := conclude_next.1 h
  · cases congrArg State.status heq
  · cases congrArg State.status heq
    rfl

/-- Settles O43: a failure keeps the operand, the capacity and `BUF`, by which a build fails, and the structures, by which a
query fails. -/
theorem failedCommandFailsAgain : Obligations.FailedCommandFailsAgain := by
  intro s t i e h hfail
  obtain ⟨hi, rfl⟩ | ⟨rfl, rfl⟩ | ⟨rfl, rfl⟩ := exec_failed h hfail
  · exact ⟨_, exec_readsOnly_raise hi h, rfl⟩
  · obtain ⟨hlen, rfl⟩ | ⟨-, hok⟩ := ite_failed_eq_failed.1 (dbuild_status h).symm
    · exact ⟨_, exec_dbuild_of_lt hlen, rfl⟩
    · cases hok
  · obtain ⟨hlen, rfl⟩ | ⟨hlen, hcause⟩ := ite_failed_eq_failed.1 (sbuild_status h).symm
    · exact ⟨_, exec_sbuild_of_lt hlen, rfl⟩
    · obtain ⟨hzero, rfl⟩ | ⟨-, hok⟩ := ite_failed_eq_failed.1 hcause
      · exact ⟨_, exec_sbuild_of_ones_eq_zero (Nat.le_of_not_lt hlen) hzero, rfl⟩
      · cases hok

end Sys2Proof.Machine

/-! PROOFS. The statements of 70_reset_and_hazards.md: a build discards its own structure even when it fails, and keeps the other
one (O47). -/

namespace Sys2Proof.Machine

/-- A failed `DBUILD` leaves no valid index (R175). -/
theorem dbuild_status_of_dvalid {s t : State} (h : exec .dbuild s = .next t) (hvalid : t.dvalid = true) :
    t.status = .ok := by
  obtain ⟨u, -, rfl⟩ | ⟨e, -, rfl⟩ := concludeBuild_next.1 h
  · rfl
  · rw [dvalid_raise, dvalid_setDvalid] at hvalid
    cases hvalid

/-- `DBUILD` keeps the sparse structure, its two flags and its two memories, whether it answers or fails (R195). -/
theorem dbuild_keeps_sparse {s t : State} (h : exec .dbuild s = .next t) :
    t.sv = s.sv ∧ t.svalid = s.svalid ∧ t.sdegen = s.sdegen ∧ t.low = s.low ∧ t.hbuf = s.hbuf := by
  obtain ⟨u, hu, rfl⟩ | ⟨e, -, rfl⟩ := concludeBuild_next.1 h
  · obtain ⟨-, c, -, rfl⟩ := dbuildBody_eq_ok hu
    exact ⟨rfl, (svalid_setDvalid _ _).trans (svalid_setDvalid _ _),
      (sdegen_setDvalid _ _).trans (sdegen_setDvalid _ _), rfl, rfl⟩
  · exact ⟨rfl, svalid_setDvalid _ _, sdegen_setDvalid _ _, rfl, rfl⟩

/-- `SBUILD` keeps the dense index and its flag, whether it answers or fails (R195). -/
theorem sbuild_keeps_dense {s t : State} (h : exec .sbuild s = .next t) : t.dv = s.dv ∧ t.dvalid = s.dvalid := by
  obtain ⟨u, hu, rfl⟩ | ⟨e, -, rfl⟩ := concludeBuild_next.1 h
  · obtain ⟨frame, -, hdvalid, -⟩ := sbuildBody_frame hu
    exact ⟨(congrArg State.dv frame :), hdvalid.trans (by simp)⟩
  · exact ⟨rfl, by simp⟩

/-- Settles O47: a build ends with its own structure valid only when it succeeds, and keeps all that the other is made of. -/
theorem buildReplacesItsOwnStructureOnly : Obligations.BuildReplacesItsOwnStructureOnly := by
  refine fun s t => ⟨fun h => ?_, fun h => ?_⟩
  · have discarded : t.status ≠ .ok → t.dvalid = false := fun hfail =>
      Bool.eq_false_iff.2 fun hvalid => hfail (dbuild_status_of_dvalid h hvalid)
    have built (hok : t.status = .ok) : t.dvalid = true ∧ t.dv.length = s.operand := by
      obtain ⟨hvalid, -, hlen⟩ := dbuild_denseInv h hok
      exact ⟨hvalid, hlen⟩
    obtain ⟨hsv, hsvalid, hsdegen, hlow, hhbuf⟩ := dbuild_keeps_sparse h
    exact ⟨discarded, built, hsv, hsvalid, hsdegen, hlow, hhbuf, fun ok => sparseInv_exec ok h⟩
  · have discarded : t.status ≠ .ok → t.svalid = false := fun hfail =>
      Bool.eq_false_iff.2 fun hvalid => hfail (sbuild_status_of_svalid h hvalid)
    have built (hok : t.status = .ok) : t.svalid = true ∧ t.sv.length = s.operand := by
      obtain ⟨-, -, hvalid, -⟩ := sbuild_built h hok
      obtain ⟨-, hlen, -⟩ := sbuild_sparseOk h hok
      exact ⟨hvalid, hlen⟩
    obtain ⟨hdv, hdvalid⟩ := sbuild_keeps_dense h
    exact ⟨discarded, built, hdv, hdvalid, fun ok => denseInv_exec ok h⟩

end Sys2Proof.Machine
